-- ==== Sys2Proof/Word.lean ====
section
/-! DEFINITION. The word types of the block: bytes, cursors, the occupancy count, command words. -/

namespace Sys2Proof

/-- One datum of the block: 8 bits, unsigned (R6). -/
abbrev Byte := BitVec 8

/-- A cursor of the ring buffer: 7 bits, so that advancing wraps modulo 128 (R10, R11, R12). -/
abbrev Cursor := BitVec 7

/-- The occupancy count: 8 bits, of which 0..128 are legal (R14). -/
abbrev Count := BitVec 8

/-- A command word `cmd[11:0]` (R43). -/
abbrev Cmd := BitVec 12

end Sys2Proof
end

