-- ==== Sys2Proof/Config.lean ====
section
/-! DEFINITION. What is fixed for this hardware, and the values the spec leaves open. -/

namespace Sys2Proof.Config

/-- `C`, the capacity of the ring buffer in bytes (R4). -/
def capacity : Nat := 128

/-- `START`, the start delimiter `[` (R5, R42; D15; log 22). -/
def startByte : Byte := 0x5B#8

/-- `END`, the end delimiter `]` (R5, R42; D15; log 22). -/
def endByte : Byte := 0x5D#8

/-- The byte a cell of `store` holds at power-up: "each cell holds an arbitrary byte that the model must
not assume" (R20, D2, U10). A free value (log 1). -/
opaque powerUpByte : Nat → Byte

/-- The electrical level that means "asserted" on a direction line (D8). -/
inductive Level
  /-- The line is driven high. -/
  | high
  /-- The line is driven low. -/
  | low
  deriving DecidableEq, Repr, Inhabited

/-- The other level. -/
def Level.other : Level → Level
  | .high => .low
  | .low => .high

/-- `TX_EN_ACTIVE`, an open parameter no rule depends on (D8, U19; log 5). -/
opaque txEnActive : Level

/-- `RX_EN_ACTIVE`, an open parameter no rule depends on (D8, U19; log 5). -/
opaque rxEnActive : Level

/-- What the line carries to a board that listens while both boards transmit: "any value" (U8).
A free value, one for each number of bytes sent before (log 19). -/
opaque collisionByte : Nat → Byte

end Sys2Proof.Config
end

