-- ==== Sys2Proof/Syntax.lean ====
section
/-! DEFINITION. The operations of the block, one constructor for each row of spec/opcode_table.json (R44),
and the agents that issue them (R7). -/

namespace Sys2Proof

/-- An operation: one request at one port of the block (R44, R45). -/
inductive Instr
  /-- RB.PUSH `b`: append a byte to the ring buffer (R52). -/
  | rbPush (b : Byte)
  /-- RB.POP: remove the oldest byte of the ring buffer (R53). -/
  | rbPop
  /-- RB.RESET: empty the ring buffer (R51). -/
  | rbReset
  /-- RX.START: the start delimiter was received (R59). -/
  | rxStart
  /-- RX.END: the end delimiter was received (R60). -/
  | rxEnd
  /-- RX.DATA `b`: any other byte was received (R61). -/
  | rxData (b : Byte)
  /-- RDY.POLL: read the `ready` flag (R67). -/
  | rdyPoll
  /-- RDY.CLR: clear the `ready` flag (R68). -/
  | rdyClr
  /-- DIR.TX: switch the line to Transmit (R74). -/
  | dirTx
  /-- DIR.RX: switch the line to Receive (R75, R76). -/
  | dirRx
  /-- TX.BYTE `b`: hand a byte to the serial transmitter (R78, R79). -/
  | txByte (b : Byte)
  /-- TX.DONE: the byte in flight has left the line (R80). -/
  | txDone
  /-- SYS.RESET: power-up (R96). -/
  | sysReset
  deriving DecidableEq, Repr

/-- What executes a step (R7). -/
inductive Agent
  /-- PROD, the byte-received context. -/
  | prod
  /-- CONS, the consumer. -/
  | cons
  /-- SHIFT, the serial transmitter of the environment. -/
  | shift
  /-- RST, the reset source. -/
  | rst
  /-- The component-level test of RB (R2, D18; log 16). -/
  | test
  deriving DecidableEq, Repr

end Sys2Proof
end

