-- ==== Sys2Proof/WellFormed.lean ====
section
/-! DEFINITION. Which terms of `Instr` an encoding exists for. -/

namespace Sys2Proof

/-- RX.DATA carries a byte that is neither delimiter (R42, R45); every other operation is well formed
with any operand. -/
def Instr.wf : Instr → Bool
  | .rxData b => b != Config.startByte && b != Config.endByte
  | .rbPush _ => true
  | .rbPop => true
  | .rbReset => true
  | .rxStart => true
  | .rxEnd => true
  | .rdyPoll => true
  | .rdyClr => true
  | .dirTx => true
  | .dirRx => true
  | .txByte _ => true
  | .txDone => true
  | .sysReset => true

end Sys2Proof
end

