-- ==== Sys2Proof/Decode.lean ====
section
/-! DEFINITION. The decoder of command words (R42 to R46), the encoder, and the agent that issues each
operation (R7, R44). -/

namespace Sys2Proof

/-- Why a word spells no operation. -/
inductive DecodeError
  /-- The operation code is 0x0 or 0xB to 0xE: "refuse: reserved op" (R46). -/
  | reservedOp (op : BitVec 4)
  deriving DecidableEq, Repr

/-- `op = cmd[11:8]` (R43). -/
def Cmd.op (w : Cmd) : BitVec 4 := w.extractLsb' 8 4

/-- `data = cmd[7:0]` (R43). -/
def Cmd.data (w : Cmd) : Byte := w.extractLsb' 0 8

/-- The class of a received byte, as the operation it selects: START, END or DATA, by equality on all
8 bits and by nothing else (R42, R62). -/
def rxByte (b : Byte) : Instr :=
  if b = Config.startByte then .rxStart
  else if b = Config.endByte then .rxEnd
  else .rxData b

/-- The operation that a code and a data field spell (R44), or the reason they spell none (R46). The data field
of an operation without an operand is ignored (R45). -/
def decodeFields (op : BitVec 4) (d : Byte) : Except DecodeError Instr :=
  match op with
  | 0x1#4 => .ok (.rbPush d)
  | 0x2#4 => .ok .rbPop
  | 0x3#4 => .ok .rbReset
  | 0x4#4 => .ok (rxByte d)
  | 0x5#4 => .ok .rdyPoll
  | 0x6#4 => .ok .rdyClr
  | 0x7#4 => .ok .dirTx
  | 0x8#4 => .ok .dirRx
  | 0x9#4 => .ok (.txByte d)
  | 0xA#4 => .ok .txDone
  | 0xF#4 => .ok .sysReset
  | op => .error (.reservedOp op)

/-- The operation a command word spells, total on the 4096 words (R43, R44, R45). -/
def decode (w : Cmd) : Except DecodeError Instr := decodeFields (Cmd.op w) (Cmd.data w)

/-- The operation code of an operation (R44). -/
def opcode : Instr → BitVec 4
  | .rbPush _ => 0x1#4
  | .rbPop => 0x2#4
  | .rbReset => 0x3#4
  | .rxStart => 0x4#4
  | .rxEnd => 0x4#4
  | .rxData _ => 0x4#4
  | .rdyPoll => 0x5#4
  | .rdyClr => 0x6#4
  | .dirTx => 0x7#4
  | .dirRx => 0x8#4
  | .txByte _ => 0x9#4
  | .txDone => 0xA#4
  | .sysReset => 0xF#4

/-- The data field of the canonical spelling: the operand, or 0x00 where there is none (R45). -/
def operand : Instr → Byte
  | .rbPush b => b
  | .rbPop => 0x00#8
  | .rbReset => 0x00#8
  | .rxStart => Config.startByte
  | .rxEnd => Config.endByte
  | .rxData b => b
  | .rdyPoll => 0x00#8
  | .rdyClr => 0x00#8
  | .dirTx => 0x00#8
  | .dirRx => 0x00#8
  | .txByte b => b
  | .txDone => 0x00#8
  | .sysReset => 0x00#8

/-- The canonical command word of an operation (R43, R45, R50). -/
def encode (i : Instr) : Cmd := opcode i ++ operand i

/-- The agent whose port an operation is (R7, R24, R44). RB.PUSH and RB.RESET as operations in their own
right belong to the component-level test (R2, D18; log 16). -/
def issuer : Instr → Agent
  | .rbPush _ => .test
  | .rbPop => .cons
  | .rbReset => .test
  | .rxStart => .prod
  | .rxEnd => .prod
  | .rxData _ => .prod
  | .rdyPoll => .cons
  | .rdyClr => .cons
  | .dirTx => .cons
  | .dirRx => .cons
  | .txByte _ => .cons
  | .txDone => .shift
  | .sysReset => .rst

/-- A command word given as a number of `nbits` bits, the missing high bits zero; none where the number
has a bit above bit 11, since a command word has 12 (R43; log 17). -/
def wordOfNat (nbits w : Nat) : Option Cmd :=
  if w % 2 ^ nbits < 4096 then some (BitVec.ofNat 12 (w % 2 ^ nbits)) else none

/-- What the decoder reads from a row of spec/opcode_table.json given as a number. -/
def decodeTableWord (nbits w : Nat) : Option Instr :=
  match wordOfNat nbits w with
  | none => none
  | some cmd =>
    match decode cmd with
    | .ok i => some i
    | .error _ => none

end Sys2Proof
end

