-- ==== Sys2Proof/Machine/State.lean ====
section
/-! DEFINITION. The state of one instance of the block (R8), the model's own fields beside it, the reasons a
step can stop, and the state after reset (R20). -/

namespace Sys2Proof.Machine

/-- The array `store` (R9): the cells written since power-up with the byte each holds, at strictly rising
indices. An index that is not listed holds its power-up content (log 1). -/
abbrev Memory := List Host.Cell

/-- The two states of the frame receiver (R15). -/
inductive RxState
  /-- Idle, `started == 0`. -/
  | idle
  /-- Receiving, `started == 1`. -/
  | receiving
  deriving DecidableEq, Repr

/-- The direction of the half-duplex line (R17). -/
inductive Direction
  /-- Receive, `dir == 0`. -/
  | receive
  /-- Transmit, `dir == 1`. -/
  | transmit
  deriving DecidableEq, Repr

/-- `RX_WHILE_TX`: whether bytes are delivered to FR while the direction is Transmit (R82, D9; log 4). -/
inductive RxWhileTx
  /-- They are lost on the line: the default. -/
  | blocked
  /-- They are delivered. -/
  | delivered
  deriving DecidableEq, Repr

/-- What an operation hands back to the agent that issued it (R47). -/
inductive Result
  /-- The operation returns nothing. -/
  | none
  /-- RB.PUSH: `ok`, true for success and false for full. -/
  | push (ok : Bool)
  /-- RB.POP: the byte on success, no byte on empty (D7, U9). -/
  | pop (byte : Option Byte)
  /-- RDY.POLL: the `ready` flag. -/
  | poll (ready : Bool)
  deriving DecidableEq, Repr

/-- The labels of the model's own event log (R83, R94, D21): the hardware records nothing. -/
inductive Event
  /-- E1, BufferOverflow: a byte of a frame was dropped because RB was full (R84). -/
  | bufferOverflow
  /-- E2, MalformedFrame of the first kind: an end delimiter without a start (R85). -/
  | endWithoutStart
  /-- E3, MalformedFrame of the second kind: a start delimiter before the prior frame was closed (R85). -/
  | startBeforeClose
  /-- The fault mark `TxTruncated` (R76). -/
  | txTruncated
  /-- The fault mark `TxWhileReceive` (R79). -/
  | txWhileReceive
  deriving DecidableEq, Repr

/-- The operations supplied from outside: a trace of command words for each agent, and the schedule by which
they interleave (R32, R33, R37, D13; log 11). -/
structure Input where
  /-- The words PROD has still to present: the bytes on the line, as FR.RXBYTE words. -/
  prod : List Cmd
  /-- The words CONS has still to present. -/
  cons : List Cmd
  /-- The words SHIFT has still to present. -/
  shift : List Cmd
  /-- The words RST has still to present. -/
  rst : List Cmd
  /-- The words of a component-level test. -/
  test : List Cmd
  /-- The instants to come; each lists the agents that present an operation at it, in the order in which the
  operations take effect. -/
  schedule : List (List Agent)
  deriving DecidableEq, Repr

/-- The state. The fields up to `wireOut` are the variables of R8; those after it are the model's own. -/
structure State where
  /-- The 128 cells of RB (R9). -/
  store : Memory
  /-- The write cursor (R10). -/
  head : Cursor
  /-- The read cursor (R11). -/
  tail : Cursor
  /-- The count of occupied cells (R14). -/
  count : Count
  /-- Whether FR is inside delimiters (R15). -/
  started : RxState
  /-- The "message ready" flag (R16). -/
  ready : Bool
  /-- The direction of the line (R17). -/
  dir : Direction
  /-- Whether a byte is in flight in the serial transmitter (R18). -/
  txBusy : Bool
  /-- The bytes driven onto the line since the start of the run (R19). -/
  wireOut : List Byte
  /-- What the operation executed last handed back (R47; log 8). -/
  result : Result
  /-- The model's event log, oldest first (R94; log 9). -/
  events : List Event
  /-- The operations the agents have still to present (log 11). -/
  input : Input
  /-- The open parameter `RX_WHILE_TX`; no operation writes it (log 4). -/
  rxWhileTx : RxWhileTx
  deriving DecidableEq, Repr

/-- The faults of the spec: outcomes of the model for sequences the source gives no meaning, not signals of
the hardware (R83). Each carries the state it leaves, with the mark in its event log, so that a run can be
continued from it (log 10). -/
inductive Fault
  /-- Raised by DIR.RX with `tx_busy == 1`: the lines have switched, and the byte in flight may be cut short
  (R76, U6). Safe: the hardware goes on. -/
  | txTruncated (after : State)
  /-- Raised by TX.BYTE with `dir == 0`: no state of the block changed (R79, U7). Safe: the hardware goes
  on. -/
  | txWhileReceive (after : State)
  deriving DecidableEq, Repr

/-- The reasons a word is given no meaning. -/
inductive Refusal
  /-- Raised by `exec` for an instruction that has no meaning yet; no arm of this model does. Safe. -/
  | notModelled (mnemonic : String)
  /-- Raised by the step for a word with a reserved operation code (R46, U16). Safe. -/
  | reservedOp (op : BitVec 4)
  /-- Raised by the step for a word in the queue of an agent that has no port for that operation (R24;
  log 15). Safe: the hardware has no such input. -/
  | foreignPort (agent : Agent) (i : Instr)
  deriving DecidableEq, Repr

/-- No agent presents anything. -/
def Input.empty : Input :=
  { prod := [], cons := [], shift := [], rst := [], test := [], schedule := [] }

/-- The state right after power-up, before anything is presented (R20). -/
def State.reset : State :=
  { store := [], head := 0, tail := 0, count := 0, started := .idle, ready := false, dir := .receive,
    txBusy := false, wireOut := [], result := .none, events := [], input := Input.empty,
    rxWhileTx := .blocked }

end Sys2Proof.Machine
end

