-- ==== Sys2Proof/Machine/Operands.lean ====
section
/-! DEFINITION. The operand forms: the numeric encodings of the one-bit state (R15, R17, R48), the advance
of a cursor (R12, R56), and the results as bits (R47). -/

namespace Sys2Proof.Machine

/-- `(x + 1) mod 128`: the increment of a 7-bit cursor, 127 going to 0 (R12, R56). -/
def advance (x : Cursor) : Cursor := x + 1

/-- The bit `started`: 1 is Receiving (R15, R48, D16). -/
def RxState.bit : RxState → BitVec 1
  | .idle => 0
  | .receiving => 1

/-- The bit `dir`: 1 is Transmit (R17, R48). -/
def Direction.bit : Direction → BitVec 1
  | .receive => 0
  | .transmit => 1

/-- The bit `ok` of RB.PUSH and RB.POP, 1 for success; the other operations hand back no such bit (R47). -/
def Result.okBit : Result → Option (BitVec 1)
  | .push ok => some (if ok then 1 else 0)
  | .pop byte => some (if byte.isSome then 1 else 0)
  | .none => Option.none
  | .poll _ => Option.none

end Sys2Proof.Machine
end

