-- ==== Sys2Proof/Machine/Flags.lean ====
section
/-! DEFINITION. The combinational conditions and lines: `full` and `empty` (R14, R22), the direction lines
(R17, R48) and their electrical levels (D8), and whether FR is enabled (R82). -/

namespace Sys2Proof.Machine

/-- `full := (count == 128)`, on the count alone (R14, R58). -/
def State.full (s : State) : Bool := s.count == 128#8

/-- `empty := (count == 0)`, on the count alone (R14, R58). -/
def State.empty (s : State) : Bool := s.count == 0#8

/-- The line `tx_en`, logical level (R17). -/
def State.txEn (s : State) : Bool :=
  match s.dir with
  | .transmit => true
  | .receive => false

/-- The line `rx_en`, logical level (R17). -/
def State.rxEn (s : State) : Bool :=
  match s.dir with
  | .transmit => false
  | .receive => true

/-- The electrical level of a line whose asserted level is `active` (D8; log 5). -/
def lineLevel (active : Config.Level) (asserted : Bool) : Config.Level :=
  if asserted then active else active.other

/-- The electrical level of `tx_en` (R17, D8). -/
def State.txEnLevel (s : State) : Config.Level := lineLevel Config.txEnActive s.txEn

/-- The electrical level of `rx_en` (R17, D8). -/
def State.rxEnLevel (s : State) : Config.Level := lineLevel Config.rxEnActive s.rxEn

/-- Whether a byte on the line is delivered to FR: in Receive, and in Transmit only where `RX_WHILE_TX` is
`delivered` (R82, D9). -/
def State.rxEnabled (s : State) : Bool := s.dir == .receive || s.rxWhileTx == .delivered

end Sys2Proof.Machine
end

