-- ==== Sys2Proof/Machine/Ops.lean ====
section
/-! DEFINITION. The shared operations: the two memory primitives (R25, R26), the three operations of RB
(R51, R52, R53), the abstract queue (R13), and what the meanings share: the gate of the receiver (R82), a
result handed back, a step not taken, and the fault mark (R76, R79). -/

namespace Sys2Proof.Machine

/-! ## The memory primitives -/

/-- The byte written last to index `a` since power-up, if there was one. -/
def Memory.lookup : Memory → Nat → Option Byte
  | [], _ => none
  | (k, v) :: m, a => if k = a then some v else Memory.lookup m a

/-- `MemRead(a, 1)` (R26). A cell never written holds its power-up content (R20, D2, U10; log 1). -/
def Memory.read (m : Memory) (a : Nat) : Byte := (Memory.lookup m a).getD (Config.powerUpByte a)

/-- `MemWrite(a, 1, v)` (R25). -/
def Memory.write : Memory → Nat → Byte → Memory
  | [], a, v => [(a, v)]
  | (k, w) :: m, a, v =>
    if a < k then (a, v) :: (k, w) :: m
    else if a = k then (a, v) :: m
    else (k, w) :: Memory.write m a v

/-- The indices listed are strictly rising, at least `lo`, and below the capacity. -/
def Memory.risingFrom : Nat → Memory → Bool
  | _, [] => true
  | lo, (k, _) :: m => decide (lo ≤ k) && decide (k < Config.capacity) && Memory.risingFrom (k + 1) m

/-- The canonical form: strictly rising indices inside the address space 0..127 (R27). -/
def Memory.wf (m : Memory) : Bool := Memory.risingFrom 0 m

/-! ## The ring buffer -/

/-- RB.RESET: the cursors and the count become 0; `store` is not changed (R51, R9). -/
def State.rbReset (s : State) : State := { s with head := 0, tail := 0, count := 0 }

/-- A push that finds room: the byte at the old `head`, then the cursor and the count move (R52, D6). -/
def State.append (s : State) (b : Byte) : State :=
  { s with store := Memory.write s.store s.head.toNat b, head := advance s.head, count := s.count + 1 }

/-- RB.PUSH: the state after it, and whether it succeeded. A full buffer is left as it is (R52). -/
def State.rbPush (s : State) (b : Byte) : State × Bool :=
  if s.full then (s, false) else (s.append b, true)

/-- The byte a pop reads: `MemRead(tail, 1)` (R53). -/
def State.oldest (s : State) : Byte := Memory.read s.store s.tail.toNat

/-- A pop that finds a byte: `tail` and `count` move past it; the cell keeps its value (R53, R31). -/
def State.dropOldest (s : State) : State := { s with tail := advance s.tail, count := s.count - 1 }

/-- RB.POP: the state after it, and the byte if there was one. An empty buffer is left as it is (R53). -/
def State.rbPop (s : State) : State × Option Byte :=
  if s.empty then (s, none) else (s.dropOldest, some s.oldest)

/-- The cell of the `k`-th oldest byte (R13). -/
def State.cell (s : State) (k : Nat) : Nat := (s.tail.toNat + k) % Config.capacity

/-- The abstract queue `q` of R13: the occupied cells, oldest first. -/
def State.contents (s : State) : List Byte :=
  (List.range s.count.toNat).map fun k => Memory.read s.store (s.cell k)

/-! ## What the meanings share -/

/-- Hand a result back to the issuer (R47; log 8). -/
def State.give (s : State) (r : Result) : State := { s with result := r }

/-- Enter a label in the model's event log (R94; log 9). -/
def State.note (s : State) (e : Event) : State := { s with events := s.events ++ [e] }

/-- The words an agent has still to present. -/
def Input.queue (inp : Input) : Agent → List Cmd
  | .prod => inp.prod
  | .cons => inp.cons
  | .shift => inp.shift
  | .rst => inp.rst
  | .test => inp.test

/-- The input with the words of one agent replaced. -/
def Input.setQueue (inp : Input) (a : Agent) (q : List Cmd) : Input :=
  match a with
  | .prod => { inp with prod := q }
  | .cons => { inp with cons := q }
  | .shift => { inp with shift := q }
  | .rst => { inp with rst := q }
  | .test => { inp with test := q }

/-- The state with the words of one agent replaced. -/
def State.setQueue (s : State) (a : Agent) (q : List Cmd) : State :=
  { s with input := s.input.setQueue a q }

/-- The agent has no step in this state and waits: its operation stays at the front of its queue and
nothing else changes (R78's hold, R80; log 12). A SYS.RESET that comes alone does not take it away (log 14). -/
def State.wait (s : State) (i : Instr) : State :=
  s.setQueue (issuer i) (encode i :: s.input.queue (issuer i))

/-- A received byte reaches FR only while FR is enabled; otherwise it is lost on the line and FR has no step
(R82, R110; log 13). -/
def State.deliver (s : State) (received : State) : State := if s.rxEnabled then received else s

/-- Mark the run with a fault (R76, R79). In the place of an exception entry, which the block does not have
(R83, R89): no state is saved and no control flow changes. -/
def State.markFault (s : State) (e : Event) : State := (s.note e).give .none

/-- The state a fault leaves (log 10). -/
def Fault.after : Fault → State
  | .txTruncated s => s
  | .txWhileReceive s => s

end Sys2Proof.Machine
end

