-- ==== Sys2Proof/Machine/Direction.lean ====
section
/-! DEFINITION. The meanings of DIR.TX, DIR.RX, TX.BYTE and TX.DONE (43_direction.md). -/

namespace Sys2Proof.Machine

/-- Both lines switch as a unit, in one step (R73, R17). -/
def State.setDir (s : State) (d : Direction) : State := { s with dir := d }

/-- The serial transmitter takes a byte (R78). -/
def State.accept (s : State) (b : Byte) : State := { s with wireOut := s.wireOut ++ [b], txBusy := true }

/-- DIR.TX (R74). -/
def execDirTx (s : State) : Host.Outcome State Fault Refusal :=
  .next ((s.setDir .transmit).give .none)

/-- DIR.RX: the lines switch (R75); with a byte in flight the run is marked as well, since DC has no
interlock (R76). -/
def execDirRx (s : State) : Host.Outcome State Fault Refusal :=
  if s.txBusy then .fault (.txTruncated ((s.setDir .receive).markFault .txTruncated))
  else .next ((s.setDir .receive).give .none)

/-- TX.BYTE `b`: taken by a transmitter that is free, a hold while it is not (R78); in Receive the run is
marked and no state of the block changes (R79). -/
def execTxByte (b : Byte) (s : State) : Host.Outcome State Fault Refusal :=
  match s.dir with
  | .receive => .fault (.txWhileReceive (s.markFault .txWhileReceive))
  | .transmit => .next (if s.txBusy then s.wait (.txByte b) else (s.accept b).give .none)

/-- TX.DONE: the byte in flight has left the line; with none in flight SHIFT has no step (R80). -/
def execTxDone (s : State) : Host.Outcome State Fault Refusal :=
  .next (if s.txBusy then State.give { s with txBusy := false } .none else s.wait .txDone)

end Sys2Proof.Machine
end

