-- ==== Sys2Proof/Machine/FrameReceiver.lean ====
section
/-! DEFINITION. The meanings of the three receive operations (41_frame_receiver.md), each one FR.RXBYTE, and
gated by the direction (R82). -/

namespace Sys2Proof.Machine

/-- What a start delimiter does: RB is reset and FR is Receiving, whatever the state (R59); a frame not yet
closed is E3 (R85). -/
def State.startFrame (s : State) : State :=
  match s.started with
  | .receiving => { (s.note .startBeforeClose).rbReset with started := .receiving }
  | .idle => { s.rbReset with started := .receiving }

/-- What an end delimiter does: a frame in progress is complete; with none in progress it is ignored (R60),
which is E2 (R85). -/
def State.endFrame (s : State) : State :=
  match s.started with
  | .receiving => { s with started := .idle, ready := true }
  | .idle => s.note .endWithoutStart

/-- What any other byte does: pushed while Receiving, its result discarded, a byte for which there is no room
being E1 (R61, R84); discarded while Idle. -/
def State.captureByte (s : State) (b : Byte) : State :=
  match s.started with
  | .receiving => if (s.rbPush b).2 then (s.rbPush b).1 else (s.rbPush b).1.note .bufferOverflow
  | .idle => s

/-- RX.START (R59). -/
def execRxStart (s : State) : Host.Outcome State Fault Refusal :=
  .next (s.deliver (s.startFrame.give .none))

/-- RX.END (R60). -/
def execRxEnd (s : State) : Host.Outcome State Fault Refusal :=
  .next (s.deliver (s.endFrame.give .none))

/-- RX.DATA `b` (R61). -/
def execRxData (b : Byte) (s : State) : Host.Outcome State Fault Refusal :=
  .next (s.deliver ((s.captureByte b).give .none))

end Sys2Proof.Machine
end

