-- ==== Sys2Proof/Machine/Handoff.lean ====
section
/-! DEFINITION. The meanings of RDY.POLL and RDY.CLR (42_handoff.md). -/

namespace Sys2Proof.Machine

/-- RDY.POLL (R67): hands back `ready`, which it does not change. -/
def execRdyPoll (s : State) : Host.Outcome State Fault Refusal :=
  .next (s.give (.poll s.ready))

/-- RDY.CLR (R68): a blind write of 0. -/
def execRdyClr (s : State) : Host.Outcome State Fault Refusal :=
  .next (State.give { s with ready := false } .none)

end Sys2Proof.Machine
end

