-- ==== Sys2Proof/Machine/Reset.lean ====
section
/-! DEFINITION. The meaning of SYS.RESET (70_reset_and_hazards.md). -/

namespace Sys2Proof.Machine

/-- SYS.RESET (R96): `store` is left as it was (R9; log 2), `wire_out` is not touched (R19). -/
def execSysReset (s : State) : Host.Outcome State Fault Refusal :=
  .next (State.give
    { s.rbReset with started := .idle, ready := false, dir := .receive, txBusy := false } .none)

end Sys2Proof.Machine
end

