-- ==== Sys2Proof/Machine/RingBuffer.lean ====
section
/-! DEFINITION. The meanings of RB.PUSH, RB.POP and RB.RESET as operations in their own right
(40_ring_buffer.md). -/

namespace Sys2Proof.Machine

/-- RB.PUSH `b` (R52): hands back `ok`. -/
def execRbPush (b : Byte) (s : State) : Host.Outcome State Fault Refusal :=
  .next ((s.rbPush b).1.give (.push (s.rbPush b).2))

/-- RB.POP (R53): hands back the byte, or `empty` with no byte. -/
def execRbPop (s : State) : Host.Outcome State Fault Refusal :=
  .next (s.rbPop.1.give (.pop s.rbPop.2))

/-- RB.RESET (R51). -/
def execRbReset (s : State) : Host.Outcome State Fault Refusal :=
  .next (s.rbReset.give .none)

end Sys2Proof.Machine
end

