-- ==== Sys2Proof/Machine/Dispatch.lean ====
section
/-! DEFINITION. One arm per operation. -/

namespace Sys2Proof.Machine

/-- What an operation does, once its agent has presented it. -/
def exec (i : Instr) (s : State) : Host.Outcome State Fault Refusal :=
  match i with
  | .rbPush b => Sys2Proof.Machine.execRbPush b s
  | .rbPop => Sys2Proof.Machine.execRbPop s
  | .rbReset => Sys2Proof.Machine.execRbReset s
  | .rxStart => Sys2Proof.Machine.execRxStart s
  | .rxEnd => Sys2Proof.Machine.execRxEnd s
  | .rxData b => Sys2Proof.Machine.execRxData b s
  | .rdyPoll => Sys2Proof.Machine.execRdyPoll s
  | .rdyClr => Sys2Proof.Machine.execRdyClr s
  | .dirTx => Sys2Proof.Machine.execDirTx s
  | .dirRx => Sys2Proof.Machine.execDirRx s
  | .txByte b => Sys2Proof.Machine.execTxByte b s
  | .txDone => Sys2Proof.Machine.execTxDone s
  | .sysReset => Sys2Proof.Machine.execSysReset s

end Sys2Proof.Machine
end

