-- ==== Sys2Proof/Machine/Schedule.lean ====
section
/-! DEFINITION. How the agents' operations come to be executed: one agent's turn, one instant, and the placing
of operations from outside (R32, R33, R37, R97, D5, D13; log 11). -/

namespace Sys2Proof.Machine

/-- The state with the instants to come replaced. -/
def State.setSchedule (s : State) (l : List (List Agent)) : State :=
  { s with input := { s.input with schedule := l } }

/-- The schedule once some agents of the present instant have still to move. -/
def pushInstant (now : List Agent) (rest : List (List Agent)) : List (List Agent) :=
  match now with
  | [] => rest
  | a :: as => (a :: as) :: rest

/-- The turn of one agent: the word at the front of its queue is taken, decoded and executed (R32). An agent
that has nothing to present has no step. A reserved word is refused (R46), and so is an operation that is
not a port of this agent's (R24; log 15). -/
def State.turn (s : State) (a : Agent) : Host.Outcome State Fault Refusal :=
  match s.input.queue a with
  | [] => .next s
  | w :: q =>
    match decode w with
    | .error (.reservedOp op) => .refused (.reservedOp op)
    | .ok i => if issuer i = a then exec i (s.setQueue a q) else .refused (.foreignPort a i)

/-- The operation an agent presents is overridden by a reset at the same instant: it has no effect
(R97, D22; log 14). An agent that does not present at that instant keeps its operations, a TX.BYTE held at a busy
transmitter too: it is presented again at the agent's next turn (DESIGN CHOICE, log 14). -/
def State.override (s : State) (a : Agent) : State :=
  if a = .rst then s else s.setQueue a (s.input.queue a).tail

/-- SYS.RESET is presented at this instant. -/
def State.resetPresented (s : State) (now : List Agent) : Bool :=
  now.contains .rst && !s.input.rst.isEmpty

/-- One step of an instant: a reset wins over every other operation presented (R88, R97); otherwise the first
of the agents that are left moves (R33). -/
def State.instant (s : State) (now : List Agent) (rest : List (List Agent)) :
    Host.Outcome State Fault Refusal :=
  if s.resetPresented now then (now.foldl State.override (s.setSchedule rest)).turn .rst
  else
    match now with
    | [] => .next (s.setSchedule rest)
    | a :: as => (s.setSchedule (pushInstant as rest)).turn a

/-- The agent in whose queue a word is placed; a word that spells no operation is placed with CONS. -/
def presenter (w : Cmd) : Agent :=
  match decode w with
  | .ok i => issuer i
  | .error _ => .cons

/-- Present one word next, before anything else that is waiting. -/
def State.presentNext (s : State) (w : Cmd) : State :=
  (s.setQueue (presenter w) (w :: s.input.queue (presenter w))).setSchedule
    ([presenter w] :: s.input.schedule)

/-- Add one word at the end of its agent's queue. -/
def State.enqueue (s : State) (i : Instr) : State :=
  s.setQueue (issuer i) (s.input.queue (issuer i) ++ [encode i])

/-- Present some operations at one instant after those already scheduled, taking effect in the order
listed (R33). -/
def State.presentInstant (s : State) (is : List Instr) : State :=
  (is.foldl State.enqueue s).setSchedule (s.input.schedule ++ [is.map issuer])

end Sys2Proof.Machine
end

