-- ==== Sys2Proof/Machine/Step.lean ====
section
/-! DEFINITION. One step of the machine, and the placing of a table word as the next operation. -/

namespace Sys2Proof.Machine

/-- One step: the next move of the present instant (R32, R33). With nothing presented the block "simply holds
its state" (R95; log 11). -/
def step (s : State) : Host.Outcome State Fault Refusal :=
  match s.input.schedule with
  | [] => .next s
  | now :: rest => s.instant now rest

/-- The state in which the very next step executes the word given; a number that is no 12-bit word changes
nothing (log 17). -/
def State.withFetchWord (s : State) (nbits w : Nat) : State :=
  match wordOfNat nbits w with
  | none => s
  | some cmd => s.presentNext cmd

end Sys2Proof.Machine
end

