-- ==== Sys2Proof/Machine/Link.lean ====
section
/-! DEFINITION. Two instances joined by the half-duplex line (R93, D24; log 19). One instance is the machine;
this file only says what a byte sent by one does to the input of the other. -/

namespace Sys2Proof.Machine

/-- What arrives at a board when its peer sends `b` as its `n`-th byte: `b` itself if the board is in
Receive; nothing if it is in Transmit, or any byte where it receives while it transmits (R93, U8). -/
def State.arriving (s : State) (n : Nat) (b : Byte) : Option Byte :=
  match s.dir, s.rxWhileTx with
  | .receive, _ => some b
  | .transmit, .blocked => none
  | .transmit, .delivered => some (Config.collisionByte n)

/-- A board after its peer has driven some bytes onto the line, the first of them as its `n`-th. R93 is silent on when
such a byte takes effect among the board's own operations: the model puts its FR.RXBYTE behind every instant already
scheduled there, so that the direction counts twice, when the byte is driven (`arriving`) and when the FR.RXBYTE is
executed (R82) (DESIGN CHOICE, log 19). -/
def State.hear : State → Nat → List Byte → State
  | s, _, [] => s
  | s, n, b :: bs =>
    match s.arriving n b with
    | some c => (s.presentInstant [rxByte c]).hear (n + 1) bs
    | none => s.hear (n + 1) bs

/-- The two boards. -/
structure Boards where
  /-- One board. -/
  a : State
  /-- The other board. -/
  b : State
  deriving DecidableEq, Repr

/-- A step of board `a`; what it drives onto the line arrives at board `b`, byte by byte and in order. A
fault or a refusal of the board stops the pair. -/
def Boards.stepA (p : Boards) : Option Boards :=
  match step p.a with
  | .next t => some
      { a := t, b := p.b.hear p.a.wireOut.length (t.wireOut.drop p.a.wireOut.length) }
  | _ => none

/-- The two boards exchanged. -/
def Boards.swap (p : Boards) : Boards := { a := p.b, b := p.a }

/-- A step of board `b`. -/
def Boards.stepB (p : Boards) : Option Boards := (p.swap.stepA).map Boards.swap

end Sys2Proof.Machine
end

