-- ==== Sys2Proof/Machine/Sequences.lean ====
section
/-! DEFINITION. Sequences of operations: the frame on the wire (R38, R39) and the pseudo-operations rxs,
frame, drain, dispatch and send (R50, R69, R70, R81). -/

namespace Sys2Proof.Machine

/-- `frame(P) = [START] ++ P ++ [END]`, the bytes on the wire (R38, R39). -/
def frameBytes (p : List Byte) : List Byte := Config.startByte :: (p ++ [Config.endByte])

/-- `rxs`: the bytes are received one by one (R50). -/
def rxs (bytes : List Byte) : List Instr := bytes.map rxByte

/-- `frame "P"`: a whole frame is received (R50). -/
def frame (p : List Byte) : List Instr := rxs (frameBytes p)

/-- One byte of a send: taken by the transmitter, then gone from the line (R50). -/
def sendByte (b : Byte) : List Instr := [.txByte b, .txDone]

/-- `send "P"`: the caller's sequence, with the steps of SHIFT at the earliest place they can occur
(R50, R81). -/
def send (p : List Byte) : List Instr := .dirTx :: ((frameBytes p).flatMap sendByte ++ [.dirRx])

/-- Execute operations in order, stopping at the first fault or refusal. -/
def execAll : List Instr → State → Host.Outcome State Fault Refusal
  | [], s => .next s
  | i :: is, s =>
    match exec i s with
    | .next t => execAll is t
    | .fault r => .fault r
    | .refused r => .refused r

/-- `drain`: pop until a pop reports empty, or until `fuel` pops were made; the bytes returned and the state
after it (R69). -/
def drain : Nat → State → List Byte × State
  | 0, s => ([], s)
  | fuel + 1, s =>
    match exec .rbPop s with
    | .next t =>
      match t.result with
      | .pop (some b) => (b :: (drain fuel t).1, (drain fuel t).2)
      | _ => ([], t)
    | _ => ([], s)

/-- `dispatch`: poll; if it returned 1, drain and then clear (R70). The message, if there was one, and the
state after it. -/
def dispatch (fuel : Nat) (s : State) : Option (List Byte) × State :=
  match exec .rdyPoll s with
  | .next t =>
    match t.result with
    | .poll true =>
      match exec .rdyClr (drain fuel t).2 with
      | .next u => (some (drain fuel t).1, u)
      | _ => (some (drain fuel t).1, (drain fuel t).2)
    | _ => (none, t)
  | _ => (none, s)

/-- A run that goes on after a fault mark, as the hardware does (R83; log 10); it stops at a refusal only. -/
def execOn : List Instr → State → State
  | [], s => s
  | i :: is, s =>
    match exec i s with
    | .next t => execOn is t
    | .fault r => execOn is r.after
    | .refused _ => s

end Sys2Proof.Machine
end

