-- ==== Sys2Proof/Safety.lean ====
section
/-! DEFINITION. What counts as a safe run: the invariant of the reachable states (R13, R14), the premises of
R99, and the ends of a run (R112). -/

namespace Sys2Proof.Machine

/-- The next state, if the outcome is one. -/
def nextOf : Host.Outcome State Fault Refusal → Option State
  | .next t => some t
  | .fault _ => none
  | .refused _ => none

/-- The state an operation leaves: the next state, or the state a fault leaves; none for a refusal. -/
def leftBy : Host.Outcome State Fault Refusal → Option State
  | .next t => some t
  | .fault r => some r.after
  | .refused _ => none

/-- The cell of `store` an operation writes, if it writes one: the cell at `head`, for a push that finds room,
whether by itself or by a byte captured in a frame (R25, R52, R61). -/
def storedCell (i : Instr) (s : State) : Option Nat :=
  match i with
  | .rbPush _ => if s.full then none else some s.head.toNat
  | .rxData _ =>
    if s.rxEnabled && s.started == .receiving && !s.full then some s.head.toNat else none
  | _ => none

/-- Every word waiting is an operation of the agent in whose queue it waits (R24). -/
def State.inputOwned (s : State) : Prop :=
  ∀ a w, w ∈ s.input.queue a → ∃ i, decode w = .ok i ∧ issuer i = a

/-! ## The invariant -/

/-- Every occupied cell was written since power-up, so that no pop reads a power-up content (R9, R13). -/
abbrev State.occupiedWritten (s : State) : Prop :=
  ∀ k, k < s.count.toNat → (Memory.lookup s.store (s.cell k)).isSome = true

/-- The cursors and the count agree: `head == (tail + count) mod C` (R13). -/
abbrev State.cursorsAgree (s : State) : Prop :=
  s.head.toNat = (s.tail.toNat + s.count.toNat) % Config.capacity

/-- What holds of every state reachable from reset: `store` is in its canonical form, `0 ≤ count ≤ C` (R14),
the cursors agree (R13), and every occupied cell was written (R9). -/
abbrev State.Inv (s : State) : Prop :=
  Memory.wf s.store = true ∧ s.count.toNat ≤ Config.capacity ∧ s.cursorsAgree ∧ s.occupiedWritten

/-! ## The premises of R99 -/

/-- One step of a run: the operation and the state it was executed in. -/
structure Entry where
  /-- The state before. -/
  before : State
  /-- The operation. -/
  op : Instr
  deriving DecidableEq, Repr

/-- The steps of a run that executes some operations in order, up to the first fault or refusal. -/
def entriesOf : List Instr → State → List Entry
  | [], _ => []
  | i :: is, s =>
    match exec i s with
    | .next t => { before := s, op := i } :: entriesOf is t
    | _ => [{ before := s, op := i }]

/-- P-SPSC: no operation of a component-level test occurs, so FR is the only producer (R57, R99). -/
def pSpsc (run : List Entry) : Bool := run.all fun e => issuer e.op != .test

/-- How far the consumer is in a dispatch: RDY.POLL first, then the drain, then RDY.CLR (R70). -/
inductive DispatchPhase
  /-- No poll has returned 1 since the last clear. -/
  | waiting
  /-- A poll returned 1, and the drain has not reported empty yet. -/
  | draining
  /-- The drain has reported empty; what is left is the clear. -/
  | drained
  deriving DecidableEq, Repr

/-- The phase after one step: a poll that returns 1 begins the dispatch, the pop that reports empty ends the drain
(R69), and a clear or a reset leaves no dispatch in progress (log 24). -/
def DispatchPhase.after (ph : DispatchPhase) (e : Entry) : DispatchPhase :=
  match e.op, ph with
  | .rdyPoll, .waiting => if e.before.ready then .draining else .waiting
  | .rbPop, .draining => if e.before.empty then .drained else .draining
  | .rdyClr, _ => .waiting
  | .sysReset, _ => .waiting
  | _, ph => ph

/-- P-READY: RB.POP only in a drain that a poll returning 1 began, and RDY.CLR only once that drain has reported
empty: the sequence poll, drain, clear (R99, R70; log 24). -/
def pReadyFrom : DispatchPhase → List Entry → Bool
  | _, [] => true
  | ph, e :: run =>
    (e.op != .rbPop || ph == .draining) && (e.op != .rdyClr || ph == .drained) && pReadyFrom (ph.after e) run

/-- P-READY of a whole run. -/
def pReady (run : List Entry) : Bool := pReadyFrom .waiting run

/-- The step is an RX.END that sets `ready` (R60, R82). -/
def Entry.handsOver (e : Entry) : Bool :=
  e.op == .rxEnd && e.before.rxEnabled && e.before.started == .receiving

/-- The step is a byte that takes hold of RB: a start delimiter, or a data byte in the state Receiving, in either
case delivered (R59, R61, R82). -/
def Entry.takesBuffer (e : Entry) : Bool :=
  e.before.rxEnabled &&
  match e.op with
  | .rxStart => true
  | .rxData _ => e.before.started == .receiving
  | _ => false

/-- How far the consumer is in the dispatch of the frame handed over, if one is, after one step. The RX.END that
sets `ready` opens the window; the RDY.CLR that ends the dispatch of that frame closes it, and no other one does;
and a reset closes it (R99; log 24). -/
def handOverAfter (window : Option DispatchPhase) (e : Entry) : Option DispatchPhase :=
  if e.handsOver then some .waiting
  else
    match e.op, window with
    | .sysReset, _ => none
    | .rdyClr, some .drained => none
    | _, window => window.map fun ph => ph.after e

/-- P-QUIET: from the RX.END that set `ready` to the RDY.CLR that ends the dispatch of that frame, no RX.START step
and no RX.DATA step in the state Receiving (R99; log 24). `window` is the dispatch of the frame handed over, if one
was and its dispatch has not ended. -/
def pQuietFrom : Option DispatchPhase → List Entry → Bool
  | _, [] => true
  | window, e :: run => !(window.isSome && e.takesBuffer) && pQuietFrom (handOverAfter window e) run

/-- P-QUIET of a whole run. -/
def pQuiet (run : List Entry) : Bool := pQuietFrom none run

/-- A byte that may stand in a payload: neither delimiter (R39, R40). -/
def isData (b : Byte) : Bool := b != Config.startByte && b != Config.endByte

/-- P-PAYLOAD of one payload: at most 128 bytes, no delimiter among them (R99). -/
def pPayload (p : List Byte) : Bool := decide (p.length ≤ Config.capacity) && p.all isData

/-- The bytes of a line are payloads between delimiters, each keeping P-PAYLOAD, with no delimiter outside; the last
frame may be unfinished (R38, R99; log 24). The number counts the payload bytes since the start delimiter of the frame
in progress, if there is one. -/
def payloadsFrom : Option Nat → List Byte → Bool
  | _, [] => true
  | none, b :: bytes =>
    if b = Config.startByte then payloadsFrom (some 0) bytes
    else b != Config.endByte && payloadsFrom none bytes
  | some n, b :: bytes =>
    if b = Config.endByte then payloadsFrom none bytes
    else b != Config.startByte && decide (n < Config.capacity) && payloadsFrom (some (n + 1)) bytes

/-- The bytes that were on the line towards this board in a run, whether or not they were delivered. -/
def bytesHeard (run : List Entry) : List Byte :=
  (run.filter fun e => issuer e.op == .prod).map fun e => operand e.op

/-- The transmitter takes a byte in this step (R78). -/
def Entry.takesByte (e : Entry) : Bool :=
  match e.op with
  | .txByte _ => e.before.dir == .transmit && !e.before.txBusy
  | _ => false

/-- The bytes the transmitter took in each send of a run, in order. A send begins at DIR.TX and ends at DIR.RX (R81); a
reset cuts it off (R97). `bytes` are those taken so far in the present one. -/
def sendsFrom : List Byte → List Entry → List (List Byte)
  | bytes, [] => [bytes]
  | bytes, e :: run =>
    if e.op = .dirTx ∨ e.op = .dirRx ∨ e.op = .sysReset then bytes :: sendsFrom [] run
    else sendsFrom (if e.takesByte then bytes ++ [operand e.op] else bytes) run

/-- The payload of one send: what stands between its first byte and the END it closes with, `P` of
`[START] ++ P ++ [END]` (R81); of a send that is cut off, what came of the payload (log 24). -/
def sentPayload (bytes : List Byte) : List Byte :=
  let rest := bytes.drop 1
  if rest.getLast? = some Config.endByte then rest.dropLast else rest

/-- P-PAYLOAD of a whole run: every payload in it keeps the premise, those received and the one of each send (R99;
log 24). -/
def pPayloads (run : List Entry) : Bool :=
  payloadsFrom none (bytesHeard run) && (sendsFrom [] run).all fun bytes => pPayload (sentPayload bytes)

/-- The bytes are a frame: START, then a payload, then END (R38). -/
def isFrame (bytes : List Byte) : Bool :=
  bytes.head? == some Config.startByte && bytes.getLast? == some Config.endByte && decide (2 ≤ bytes.length)

/-- P-TXSEQ: CONS transmits only by the sequence of R81: DIR.TX, the framed write, DIR.RX once the transmitter
is free (R99). What a send has issued is the beginning of a frame at every byte, taken or held, so that a send cut off
is one too: its first byte is START, after which any byte may stand in R81's payload. That CONS may poll, pop and clear during a send, which moves no line and no byte, is the model's
choice (DESIGN CHOICE, log 24). `sending` holds the bytes taken since DIR.TX, if a send is in progress. -/
def pTxSeqFrom : Option (List Byte) → List Entry → Bool
  | _, [] => true
  | sending, e :: run =>
    match e.op, sending with
    | .dirTx, none => pTxSeqFrom (some []) run
    | .dirTx, some _ => false
    | .txByte _, none => false
    | .txByte b, some bytes =>
      (bytes ++ [b]).head? == some Config.startByte &&
        pTxSeqFrom (some (if e.takesByte then bytes ++ [b] else bytes)) run
    | .dirRx, none => pTxSeqFrom none run
    | .dirRx, some bytes => !e.before.txBusy && isFrame bytes && pTxSeqFrom none run
    | .sysReset, _ => pTxSeqFrom none run
    | _, sending => pTxSeqFrom sending run

/-- P-TXSEQ of a whole run. -/
def pTxSeq (run : List Entry) : Bool := pTxSeqFrom none run

/-- P-SHIFT: SHIFT is weakly fair, so a byte in flight leaves the line at some time (R99). -/
def pShift (run : Nat → State) : Prop :=
  ∀ n, (run n).txBusy = true → ∃ m, n < m ∧ (run m).txBusy = false

/-! ## Ends of a run (R112) -/

/-- No agent has an operation left, and no byte is in flight. -/
def State.quiescent (s : State) : Bool :=
  s.input.prod.isEmpty && s.input.cons.isEmpty && s.input.shift.isEmpty && s.input.rst.isEmpty &&
  s.input.test.isEmpty && !s.txBusy

/-- The log holds a fault mark. -/
def State.faultMarked (s : State) : Bool :=
  s.events.any fun e => e == .txTruncated || e == .txWhileReceive

/-- CONS is held at a TX.BYTE (R78, R112). -/
def State.heldAtTx (s : State) : Bool :=
  s.dir == .transmit && s.txBusy &&
  match s.input.cons with
  | [] => false
  | w :: _ => Cmd.op w == 0x9#4

/-- A good end: quiescent and without a fault mark. R112 names two ends that are not good, CONS held at a TX.BYTE and a
fault mark; that an end which is not quiescent for another reason is not good either is the model's choice (DESIGN
CHOICE, log 25). -/
def State.goodEnd (s : State) : Bool := s.quiescent && !s.faultMarked

/-- The idle state that the source promises after any error (R83, R112). -/
def State.idleState (s : State) : Bool := s.started == .idle && s.dir == .receive && !s.txBusy

end Sys2Proof.Machine
end

