-- ==== Sys2Proof/Certificates/Slice0/Obligations.lean ====
section
/-! DEFINITION. The statements for the provers. -/

open Sys2Proof Sys2Proof.Machine

/-! ## Encoding -/

/-- 30_encoding.md section 3 (D12): decoding the canonical word of a well-formed operation gives it back, with
every operand. -/
def Obligations.DecodeEncodeRoundTrip : Prop :=
  ∀ i : Instr, i.wf = true → decode (encode i) = .ok i

/-- 30_encoding.md section 3 (D12): what the decoder reads is well formed and has the word's own operation code;
an operation with an operand, or a received byte, spells back to that very word, and any other operation to the
word with data 0x00; and such a word's data field is ignored. -/
def Obligations.DecodedOperationSpellsItsWord : Prop :=
  (∀ (w : Cmd) (i : Instr), decode w = .ok i →
    i.wf = true ∧ opcode i = Cmd.op w ∧
    (Cmd.op w = 0x1#4 ∨ Cmd.op w = 0x4#4 ∨ Cmd.op w = 0x9#4 → encode i = w) ∧
    (Cmd.op w ≠ 0x1#4 → Cmd.op w ≠ 0x4#4 → Cmd.op w ≠ 0x9#4 → encode i = (Cmd.op w ++ 0x00#8 : BitVec (4 + 8)))) ∧
  (∀ w w' : Cmd, Cmd.op w = Cmd.op w' →
    Cmd.op w ≠ 0x1#4 → Cmd.op w ≠ 0x4#4 → Cmd.op w ≠ 0x9#4 → decode w = decode w')

/-- opcode_table.json, by each row's own match and mask (D12): a word that a row matches decodes to that row's
operation, RX.DATA being matched after RX.START and RX.END. -/
def Obligations.TableRowsDecode : Prop :=
  ∀ w : Cmd,
    (w &&& 0xF00#12 = 0x100#12 → decode w = .ok (.rbPush (w.setWidth 8))) ∧
    (w &&& 0xF00#12 = 0x200#12 → decode w = .ok .rbPop) ∧
    (w &&& 0xF00#12 = 0x300#12 → decode w = .ok .rbReset) ∧
    (w &&& 0xFFF#12 = 0x45B#12 → decode w = .ok .rxStart) ∧
    (w &&& 0xFFF#12 = 0x45D#12 → decode w = .ok .rxEnd) ∧
    (w &&& 0xF00#12 = 0x400#12 → w ≠ 0x45B#12 → w ≠ 0x45D#12 → decode w = .ok (.rxData (w.setWidth 8))) ∧
    (w &&& 0xF00#12 = 0x500#12 → decode w = .ok .rdyPoll) ∧
    (w &&& 0xF00#12 = 0x600#12 → decode w = .ok .rdyClr) ∧
    (w &&& 0xF00#12 = 0x700#12 → decode w = .ok .dirTx) ∧
    (w &&& 0xF00#12 = 0x800#12 → decode w = .ok .dirRx) ∧
    (w &&& 0xF00#12 = 0x900#12 → decode w = .ok (.txByte (w.setWidth 8))) ∧
    (w &&& 0xF00#12 = 0xA00#12 → decode w = .ok .txDone) ∧
    (w &&& 0xF00#12 = 0xF00#12 → decode w = .ok .sysReset)

/-- 30_encoding.md section 3 (D12): the words refused are exactly those with operation code 0x0 or 0xB to 0xE,
each refused by its code. -/
def Obligations.ReservedCodesAreRefused : Prop :=
  ∀ (w : Cmd) (op : BitVec 4), decode w = .error (.reservedOp op) ↔
    (op = Cmd.op w ∧ (op = 0x0#4 ∨ op = 0xB#4 ∨ op = 0xC#4 ∨ op = 0xD#4 ∨ op = 0xE#4))

/-- 95_test_vectors.md section 2.6: all the words of vectors V55 to V69. -/
def Obligations.SampleWordsDecode : Prop :=
  decode 0x141#12 = .ok (.rbPush 0x41#8) ∧ decode 0x200#12 = .ok .rbPop ∧ decode 0x2FF#12 = .ok .rbPop ∧
  decode 0x300#12 = .ok .rbReset ∧ decode 0x45B#12 = .ok .rxStart ∧ decode 0x45D#12 = .ok .rxEnd ∧
  decode 0x45C#12 = .ok (.rxData 0x5C#8) ∧ decode 0x400#12 = .ok (.rxData 0x00#8) ∧ decode 0x4DB#12 = .ok (.rxData 0xDB#8) ∧
  decode 0x500#12 = .ok .rdyPoll ∧ decode 0x600#12 = .ok .rdyClr ∧ decode 0x700#12 = .ok .dirTx ∧
  decode 0x800#12 = .ok .dirRx ∧ decode 0x95B#12 = .ok (.txByte 0x5B#8) ∧ decode 0xA00#12 = .ok .txDone ∧
  decode 0xF00#12 = .ok .sysReset ∧ decode 0xFAA#12 = .ok .sysReset ∧ decode 0x15B#12 = .ok (.rbPush 0x5B#8) ∧
  decode 0x000#12 = .error (.reservedOp 0x0#4) ∧ decode 0x05B#12 = .error (.reservedOp 0x0#4) ∧
  decode 0xB00#12 = .error (.reservedOp 0xB#4) ∧ decode 0xC41#12 = .error (.reservedOp 0xC#4) ∧
  decode 0xD00#12 = .error (.reservedOp 0xD#4) ∧ decode 0xE5D#12 = .error (.reservedOp 0xE#4)

/-! ## Steps -/

/-- 20_memory.md section 4 and the model's reading of D13 (log 11): when the agent whose move it is has a word of its own that decodes, and
no reset is presented at the instant, the step is the execution of the decoded operation in the state with that
word taken from the agent's queue and the agent taken from the instant. -/
def Obligations.StepRunsDecodedOperation : Prop :=
  ∀ (s : State) (a : Agent) (as : List Agent) (rest : List (List Agent)) (w : Cmd) (q : List Cmd) (i : Instr),
    s.input.schedule = (a :: as) :: rest → s.resetPresented (a :: as) = false →
    s.input.queue a = w :: q → decode w = .ok i → issuer i = a →
    step s = exec i ((s.setSchedule (pushInstant as rest)).setQueue a q)

/-- The model's placing of an operation (log 11): the very next step executes the word placed, in the state it
was placed in. -/
def Obligations.PlacedWordRunsNext : Prop :=
  ∀ (s : State) (nbits w : Nat) (i : Instr), 12 ≤ nbits → w < 4096 →
    decodeTableWord nbits w = some i → step (s.withFetchWord nbits w) = exec i s

/-- The model's reading of R95 (log 11): with nothing scheduled a step leaves the state as it is, and an agent
that has nothing to present, or an instant at which nobody does, only passes. -/
def Obligations.NothingPresentedChangesNothing : Prop :=
  (∀ s : State, s.input.schedule = [] → step s = .next s) ∧
  (∀ (s : State) (rest : List (List Agent)), s.input.schedule = [] :: rest →
    step s = .next (s.setSchedule rest)) ∧
  (∀ (s : State) (a : Agent) (as : List Agent) (rest : List (List Agent)),
    s.input.schedule = (a :: as) :: rest → s.resetPresented (a :: as) = false → s.input.queue a = [] →
    step s = .next (s.setSchedule (pushInstant as rest)))

/-- R46 as the model applies it (D12), and the ownership of R24 (D11, log 15): a reserved word is refused by its
code, and a word in the queue of an agent that has no port for it is refused by the agent and the operation. -/
def Obligations.StepRefusesReservedAndForeign : Prop :=
  ∀ (s : State) (a : Agent) (as : List Agent) (rest : List (List Agent)) (w : Cmd) (q : List Cmd),
    s.input.schedule = (a :: as) :: rest → s.resetPresented (a :: as) = false → s.input.queue a = w :: q →
    (∀ op, decode w = .error (.reservedOp op) → step s = .refused (.reservedOp op)) ∧
    (∀ i, decode w = .ok i → issuer i ≠ a → step s = .refused (.foreignPort a i))

/-- 10_state.md section 6 (R24) with log 15: where every word waiting is an operation of the agent it waits
with, no step is refused, and the state a step leaves is again such a state. -/
def Obligations.OwnedInputIsNeverRefused : Prop :=
  ∀ s : State, s.inputOwned →
    ∃ t, leftBy (step s) = some t ∧ t.inputOwned

/-- 70_reset_and_hazards.md section 1 (D22): a SYS.RESET presented at an instant wins over every other operation
presented at it. The model's choices: what the others presented is taken from their queues and has no effect (log 14);
the store is left as it was (log 2); the cursors, `started`, `ready` and `tx_busy` are 0 (log 3). -/
def Obligations.ResetWinsTheInstant : Prop :=
  ∀ (s : State) (now : List Agent) (rest : List (List Agent)) (w : Cmd) (q : List Cmd),
    s.input.schedule = now :: rest → Agent.rst ∈ now → s.input.rst = w :: q → decode w = .ok .sysReset →
    ∃ t, step s = .next t ∧
      t.head = 0 ∧ t.tail = 0 ∧ t.count = 0 ∧ t.started = .idle ∧ t.ready = false ∧ t.dir = .receive ∧
      t.txBusy = false ∧ t.store = s.store ∧ t.wireOut = s.wireOut ∧
      t.input.schedule = rest ∧ t.input.rst = q ∧
      ∀ a, a ≠ Agent.rst → t.input.queue a = (s.input.queue a).drop (now.count a)

/-! ## Reset and the invariant -/

/-- 10_state.md section 5 (D1 to D4, D9; logs 1, 3, 4, 8, 9, 11): the state after power-up. -/
def Obligations.PowerUpState : Prop :=
  State.reset.count.toNat = 0 ∧ State.reset.head = 0 ∧ State.reset.tail = 0 ∧
  State.reset.started = .idle ∧ State.reset.ready = false ∧ State.reset.txBusy = false ∧
  State.reset.txEn = false ∧ State.reset.rxEn = true ∧ State.reset.wireOut = [] ∧
  State.reset.rxWhileTx = .blocked ∧ State.reset.input = Input.empty ∧ State.reset.result = .none ∧
  State.reset.events = [] ∧
  ∀ a, Memory.read State.reset.store a = Config.powerUpByte a

/-- The invariant holds at reset. -/
def Obligations.InvariantHoldsAtReset : Prop := State.reset.Inv

/-- 10_state.md section 2 (R9, R13, R14): every step keeps the invariant, and so does a fault in the state it
leaves. -/
def Obligations.StepKeepsInvariant : Prop :=
  ∀ s : State, s.Inv →
    (∀ t, step s = .next t → t.Inv) ∧ (∀ r, step s = .fault r → r.after.Inv)

/-- R14: `full` and `empty` are conditions on the count alone; the count is in 0..128 at reset and no operation
brings it out of that range; and where the cursors stand together the buffer is either empty or full. -/
def Obligations.CountAloneTellsFullFromEmpty : Prop :=
  State.reset.count.toNat ≤ 128 ∧
  (∀ s : State, (s.full = true ↔ s.count.toNat = 128) ∧ (s.empty = true ↔ s.count.toNat = 0)) ∧
  (∀ (i : Instr) (s t : State), s.count.toNat ≤ 128 → leftBy (exec i s) = some t → t.count.toNat ≤ 128) ∧
  (∀ s : State, s.Inv → (s.head = s.tail ↔ s.empty = true ∨ s.full = true))

/-- 10_state.md section 2 (R12), 40_ring_buffer.md section 1 (R52, R53), 41_frame_receiver.md section 1 (R61): a push
with room, and a captured byte with room, advances `head` by one modulo 128, and a pop with a byte advances `tail` so,
127 going to 0, the other cursor staying; nothing else moves a cursor but RB.RESET, RX.START and SYS.RESET (R51, R59,
R96); and no cursor is ever outside 0..127. That these three set a cursor to 0 is the spec's own choice D1, a DESIGN
CHOICE (log 3). -/
def Obligations.CursorAdvanceWraps : Prop :=
  (∀ (b : Byte) (s : State), s.count.toNat ≠ 128 →
    ∃ t, exec (.rbPush b) s = .next t ∧ t.head.toNat = (s.head.toNat + 1) % 128 ∧
      (s.head.toNat = 127 → t.head.toNat = 0) ∧ t.tail = s.tail) ∧
  (∀ (b : Byte) (s : State), s.dir = .receive ∨ s.rxWhileTx = .delivered → s.started = .receiving →
    s.count.toNat ≠ 128 →
    ∃ t, exec (.rxData b) s = .next t ∧ t.head.toNat = (s.head.toNat + 1) % 128 ∧
      (s.head.toNat = 127 → t.head.toNat = 0) ∧ t.tail = s.tail) ∧
  (∀ s : State, s.count.toNat ≠ 0 →
    ∃ t, exec .rbPop s = .next t ∧ t.tail.toNat = (s.tail.toNat + 1) % 128 ∧
      (s.tail.toNat = 127 → t.tail.toNat = 0) ∧ t.head = s.head) ∧
  (∀ (i : Instr) (s t : State), leftBy (exec i s) = some t →
    (t.head ≠ s.head →
      ((∃ b, i = .rbPush b ∨ i = .rxData b) ∧ t.head.toNat = (s.head.toNat + 1) % 128) ∨
      ((i = .rbReset ∨ i = .rxStart ∨ i = .sysReset) ∧ t.head.toNat = 0)) ∧
    (t.tail ≠ s.tail →
      (i = .rbPop ∧ t.tail.toNat = (s.tail.toNat + 1) % 128) ∨
      ((i = .rbReset ∨ i = .rxStart ∨ i = .sysReset) ∧ t.tail.toNat = 0)) ∧
    t.head.toNat < 128 ∧ t.tail.toNat < 128)

/-- 70_reset_and_hazards.md section 1 (D1 to D4, D9) and R9: SYS.RESET completes in every state, with every
register at its reset value, `store` as it was, and `wire_out` untouched (log 2). -/
def Obligations.SysResetValues : Prop :=
  ∀ s : State, exec .sysReset s = .next
    { s with head := 0, tail := 0, count := 0, started := .idle, ready := false, dir := .receive,
             txBusy := false, result := .none }

/-! ## The ring buffer -/

/-- 40_ring_buffer.md section 1 (D6): a push that finds room stores the byte at `head`, advances `head` modulo
128, adds one to the count, hands back success, and changes nothing else. -/
def Obligations.PushStoresAtHead : Prop :=
  ∀ (b : Byte) (s : State), s.count.toNat < 128 →
    ∃ t, exec (.rbPush b) s = .next t ∧ t.result = .push true ∧
      t.store = Memory.write s.store s.head.toNat b ∧ t.head.toNat = (s.head.toNat + 1) % 128 ∧
      t.count.toNat = s.count.toNat + 1 ∧
      t = { s with store := t.store, head := t.head, count := t.count, result := t.result }

/-- 40_ring_buffer.md section 1 (D6, D7): a pop that finds a byte hands back the byte at `tail`, advances `tail`
modulo 128, takes one from the count, and changes nothing else. -/
def Obligations.PopReturnsTheByteAtTail : Prop :=
  ∀ s : State, 0 < s.count.toNat →
    ∃ t, exec .rbPop s = .next t ∧ t.result = .pop (some (Memory.read s.store s.tail.toNat)) ∧
      t.tail.toNat = (s.tail.toNat + 1) % 128 ∧ t.count.toNat = s.count.toNat - 1 ∧
      t = { s with tail := t.tail, count := t.count, result := t.result }

/-- 40_ring_buffer.md section 1 (D1, D2): RB.RESET completes in every state, with both cursors and the count at
0, `store` and everything else as it was. -/
def Obligations.RingResetEmpties : Prop :=
  ∀ s : State, exec .rbReset s = .next { s with head := 0, tail := 0, count := 0, result := .none }

/-- R54: for every sequence of pushes, pops and resets the count stays in 0..128; a push into a full buffer
reports failure and changes nothing, and so does a pop from an empty one. -/
def Obligations.CapacityInvariant : Prop :=
  (∀ (ops : List Instr) (s : State),
    (∀ i ∈ ops, (∃ b, i = .rbPush b) ∨ i = .rbPop ∨ i = .rbReset) → s.count.toNat ≤ 128 →
    ∃ t, execAll ops s = .next t ∧ t.count.toNat ≤ 128) ∧
  (∀ (b : Byte) (s : State), s.count.toNat = 128 →
    exec (.rbPush b) s = .next { s with result := .push false }) ∧
  (∀ s : State, s.count.toNat = 0 → exec .rbPop s = .next { s with result := .pop none })

/-- R58: after 128 pushes into a buffer with no byte in it and the cursors together, the cursors stand together
and the buffer is full; after a reset they stand together and it is empty. -/
def Obligations.FullAndEmptyAtEqualCursors : Prop :=
  (∀ (bs : List Byte) (s : State), bs.length = 128 → s.count.toNat = 0 → s.head = s.tail →
    ∃ t, execAll (bs.map .rbPush) s = .next t ∧ t.head = t.tail ∧ t.count.toNat = 128 ∧
      t.full = true ∧ t.empty = false ∧ t.result = .push true) ∧
  (∀ (i : Instr) (s : State), i = .rbReset ∨ i = .sysReset →
    ∃ t, exec i s = .next t ∧ t.head = t.tail ∧ t.count.toNat = 0 ∧ t.empty = true ∧ t.full = false) ∧
  State.reset.head = State.reset.tail ∧ State.reset.count.toNat = 0 ∧ State.reset.empty = true ∧
  State.reset.full = false

/-- 40_ring_buffer.md section 2 (R55 in its general form, which the spec derives): on the abstract queue a reset
empties, a successful push appends, a successful pop returns and removes the first byte, and a failing operation
changes nothing. -/
def Obligations.RingRefinesQueue : Prop :=
  ∀ s : State, s.Inv →
    (∃ t, exec .rbReset s = .next t ∧ t.contents = []) ∧
    (∀ b, s.count.toNat < 128 →
      ∃ t, exec (.rbPush b) s = .next t ∧ t.result = .push true ∧ t.contents = s.contents ++ [b]) ∧
    (∀ b, s.count.toNat = 128 →
      ∃ t, exec (.rbPush b) s = .next t ∧ t.result = .push false ∧ t.contents = s.contents) ∧
    (0 < s.count.toNat →
      ∃ t b, exec .rbPop s = .next t ∧ t.result = .pop (some b) ∧ s.contents = b :: t.contents) ∧
    (s.count.toNat = 0 →
      ∃ t, exec .rbPop s = .next t ∧ t.result = .pop none ∧ t.contents = s.contents)

/-- 40_ring_buffer.md section 2 (R55, its first sentence): N pushes into an empty buffer, N at most 128, followed
by N pops, return the bytes in the order pushed. -/
def Obligations.PushesThenPopsKeepOrder : Prop :=
  ∀ (bs : List Byte) (s : State), bs.length ≤ 128 → s.count.toNat = 0 → s.head = s.tail →
    ∃ t u, execAll (bs.map .rbPush) s = .next t ∧ drain bs.length t = (bs, u) ∧ u.count.toNat = 0

/-- R25: a MemWrite changes the one cell it names; and the store changes only by a push, which writes at `head`,
be it an operation of its own or the push of a captured byte. -/
def Obligations.MemWriteChangesOneCell : Prop :=
  (∀ (m : Memory) (a b : Nat) (v : Byte),
    Memory.read (Memory.write m a v) b = if b = a then v else Memory.read m b) ∧
  (∀ (i : Instr) (s t : State), leftBy (exec i s) = some t →
    t.store = s.store ∨
    ∃ b, (i = .rbPush b ∨ i = .rxData b) ∧ t.store = Memory.write s.store s.head.toNat b)

/-- R26: a pop reads the cell at `tail`, does not change the store, and depends on no other cell; no other operation
reads the store: with any other store it does the same, and what it leaves in the store is that other store, with the
carried byte written at `head` where it stores one. -/
def Obligations.OnlyPopReadsTheStore : Prop :=
  (∀ s : State, 0 < s.count.toNat →
    ∃ t, exec .rbPop s = .next t ∧ t.result = .pop (some (Memory.read s.store s.tail.toNat)) ∧
      t.store = s.store) ∧
  (∀ (s t : State) (m : Memory), Memory.read m s.tail.toNat = Memory.read s.store s.tail.toNat →
    exec .rbPop s = .next t → exec .rbPop { s with store := m } = .next { t with store := m }) ∧
  (∀ (i : Instr) (s t : State) (m : Memory), i ≠ .rbPop → leftBy (exec i s) = some t →
    ∃ m', leftBy (exec i { s with store := m }) = some { t with store := m' } ∧
      (storedCell i s = none → m' = m) ∧
      (∀ a, storedCell i s = some a →
        ∃ b, (i = .rbPush b ∨ i = .rxData b) ∧ m' = Memory.write m s.head.toNat b))

/-- 20_memory.md section 1 (R25) and the store rows of R52, R61: whatever an operation leaves, every cell but the
one it stores to reads as before, and that one reads as the byte it carries. -/
def Obligations.StoreFrame : Prop :=
  ∀ (i : Instr) (s t : State), leftBy (exec i s) = some t →
    (∀ a, storedCell i s ≠ some a → Memory.read t.store a = Memory.read s.store a) ∧
    (∀ a, storedCell i s = some a →
      ∃ b, (i = .rbPush b ∨ i = .rxData b) ∧ a = s.head.toNat ∧ Memory.read t.store a = b)

/-- 10_state.md section 2 (R9, R13): while the invariant holds no pop hands back a power-up content. -/
def Obligations.PopNeverReadsUnwrittenCell : Prop :=
  ∀ (s t : State) (b : Byte), s.Inv → exec .rbPop s = .next t → t.result = .pop (some b) →
    Memory.lookup s.store s.tail.toNat = some b

/-! ## The frame receiver -/

/-- 30_encoding.md section 2 (D15): the class of a received byte depends on its value alone; exactly one of the
three holds. -/
def Obligations.ReceivedByteHasOneClass : Prop :=
  rxByte 0x5B#8 = .rxStart ∧ rxByte 0x5D#8 = .rxEnd ∧
  (∀ b : Byte, b ≠ 0x5B#8 → b ≠ 0x5D#8 → rxByte b = .rxData b) ∧
  (∀ b : Byte, (rxByte b).wf = true ∧ decode (0x4#4 ++ b) = .ok (rxByte b))

/-- R59: a start delimiter that is delivered resets RB and enters Receiving whatever the state; `store`, `ready`,
`dir` and the rest keep their values. Its word is 0x45B. -/
def Obligations.StartDelimiterAlwaysWins : Prop :=
  decode 0x45B#12 = .ok .rxStart ∧
  ∀ s : State, s.dir = .receive ∨ s.rxWhileTx = .delivered →
    ∃ t, exec .rxStart s = .next t ∧ t.head = 0 ∧ t.tail = 0 ∧ t.count = 0 ∧ t.started = .receiving ∧
      t.store = s.store ∧ t.ready = s.ready ∧ t.dir = s.dir ∧ t.txBusy = s.txBusy ∧ t.wireOut = s.wireOut ∧
      t.result = .none

/-- R60: an end delimiter that is delivered while Receiving enters Idle and sets `ready`; while Idle it changes
nothing. RB and `dir` keep their values. Its word is 0x45D. -/
def Obligations.EndDelimiterCompletesFrame : Prop :=
  decode 0x45D#12 = .ok .rxEnd ∧
  ∀ s : State, s.dir = .receive ∨ s.rxWhileTx = .delivered →
    ∃ t, exec .rxEnd s = .next t ∧
      (s.started = .receiving → t.started = .idle ∧ t.ready = true) ∧
      (s.started = .idle → t.started = .idle ∧ t.ready = s.ready) ∧
      t.store = s.store ∧ t.head = s.head ∧ t.tail = s.tail ∧ t.count = s.count ∧ t.dir = s.dir ∧
      t.txBusy = s.txBusy ∧ t.wireOut = s.wireOut ∧ t.result = .none

/-- R61: any other byte that is delivered is pushed while Receiving, dropped where RB is full, and discarded
while Idle; nobody is told. Its word is 0x400 with the byte. -/
def Obligations.DataByteIsCapturedOrDropped : Prop :=
  ∀ (b : Byte) (s : State), b ≠ 0x5B#8 → b ≠ 0x5D#8 → s.dir = .receive ∨ s.rxWhileTx = .delivered →
    s.count.toNat ≤ 128 →
    decode (0x400#12 ||| b.setWidth 12) = .ok (.rxData b) ∧
    ∃ t, exec (.rxData b) s = .next t ∧
      (s.started = .receiving → s.count.toNat < 128 →
        t.store = Memory.write s.store s.head.toNat b ∧ t.head.toNat = (s.head.toNat + 1) % 128 ∧
        t.count.toNat = s.count.toNat + 1) ∧
      (s.started = .receiving → s.count.toNat = 128 →
        t.store = s.store ∧ t.head = s.head ∧ t.count = s.count) ∧
      (s.started = .idle → t.store = s.store ∧ t.head = s.head ∧ t.count = s.count) ∧
      t.tail = s.tail ∧ t.started = s.started ∧ t.ready = s.ready ∧ t.dir = s.dir ∧
      t.txBusy = s.txBusy ∧ t.wireOut = s.wireOut ∧ t.result = .none

/-- 43_direction.md section 4 (D9): while the direction is Transmit and RX_WHILE_TX is `blocked`, a received byte
of any class is lost: FR has no step and the state is as before. -/
def Obligations.BytesAreLostWhileTransmitting : Prop :=
  ∀ (b : Byte) (s : State), s.dir = .transmit → s.rxWhileTx = .blocked → exec (rxByte b) s = .next s

/-- R64: after any RX.START the buffer is empty and the state is Receiving, whatever the state before. -/
def Obligations.RestartIsIdempotent : Prop :=
  ∀ s : State, s.dir = .receive ∨ s.rxWhileTx = .delivered →
    ∃ t, exec .rxStart s = .next t ∧ t.count.toNat = 0 ∧ t.contents = [] ∧ t.started = .receiving

/-- 41_frame_receiver.md section 3 (R65, which the spec derives in detail): a payload of at most 128 bytes without
delimiters, received as a frame, is completed with `ready` set, lies in the store from cell 0, and is exactly
what a drain returns. -/
def Obligations.FrameRoundTrip : Prop :=
  ∀ (p : List Byte) (s : State), pPayload p = true → s.dir = .receive ∨ s.rxWhileTx = .delivered →
    ∃ t, execAll (frame p) s = .next t ∧ t.started = .idle ∧ t.ready = true ∧
      t.count.toNat = p.length ∧ t.tail = 0 ∧ t.head.toNat = p.length % 128 ∧
      (∀ (i : Nat) (b : Byte), p[i]? = some b → Memory.read t.store i = b) ∧
      (drain (p.length + 1) t).1 = p

/-- 20_memory.md section 4 (R34, under D5) and 41_frame_receiver.md section 3 (R65): with the consumer's polls and
clears and the transmitter's completions falling anywhere between the bytes of a frame, a poll after the end
delimiter hands back 1 and the whole payload is there for the consumer. -/
def Obligations.ReadyPublishesTheWholeFrame : Prop :=
  ∀ (p : List Byte) (ops : List Instr) (s : State), pPayload p = true →
    s.dir = .receive ∨ s.rxWhileTx = .delivered →
    (∀ i ∈ ops, (∃ b, i = rxByte b) ∨ i = .rdyPoll ∨ i = .rdyClr ∨ i = .txDone) →
    ops.filter (fun i => issuer i == .prod) = rxs (Config.startByte :: p) →
    ∃ t, execAll (ops ++ [.rxEnd, .rdyPoll]) s = .next t ∧ t.result = .poll true ∧ t.contents = p

/-- R105: a frame with more than 128 payload bytes is delivered as its first 128 bytes, with `ready` set as usual
and no result for anyone. -/
def Obligations.OverlongFrameIsTruncated : Prop :=
  ∀ (p : List Byte) (s : State), 128 < p.length → p.all isData = true →
    s.dir = .receive ∨ s.rxWhileTx = .delivered →
    ∃ t, execAll (frame p) s = .next t ∧ t.started = .idle ∧ t.ready = true ∧ t.result = .none ∧
      t.contents = p.take 128 ∧ (drain 129 t).1 = p.take 128

/-- R104: a start delimiter inside a payload restarts the frame, whatever came before it, and the message is what
follows it; an end delimiter inside a payload ends the frame there, the message is what precedes it, and the rest is
discarded. Either message is cut at 128 bytes. -/
def Obligations.DelimiterInsidePayload : Prop :=
  ∀ (u v : List Byte) (s : State), v.all isData = true → s.dir = .receive ∨ s.rxWhileTx = .delivered →
    (∃ t, execAll (frame (u ++ Config.startByte :: v)) s = .next t ∧ t.ready = true ∧ t.started = .idle ∧
      t.contents = v.take 128) ∧
    (u.all isData = true →
      ∃ t, execAll (frame (u ++ Config.endByte :: v)) s = .next t ∧ t.ready = true ∧ t.started = .idle ∧
        t.contents = u.take 128)

/-- The event log of the model (log 9), with the labels of 60_exceptions.md section 1: exactly the three silent
errors are entered, each when its byte is delivered, and nothing else the block does is. -/
def Obligations.SilentErrorsAreLogged : Prop :=
  ∀ (i : Instr) (s t : State), exec i s = .next t →
    t.events = s.events ++
      (if s.rxEnabled = true ∧ i = .rxStart ∧ s.started = .receiving then [.startBeforeClose]
       else if s.rxEnabled = true ∧ i = .rxEnd ∧ s.started = .idle then [.endWithoutStart]
       else if s.rxEnabled = true ∧ (∃ b, i = .rxData b) ∧ s.started = .receiving ∧ s.full = true then
         [.bufferOverflow]
       else [])

/-! ## The hand-off -/

/-- R16: `ready` is set only by an end delimiter while Receiving and cleared only by RDY.CLR and SYS.RESET; it is
read by RDY.POLL, which does not change it. -/
def Obligations.ReadyHasOneSetter : Prop :=
  (∀ (i : Instr) (s t : State), leftBy (exec i s) = some t →
    t.ready = s.ready ∨ (t.ready = true ∧ i = .rxEnd ∧ s.started = .receiving) ∨
    (t.ready = false ∧ (i = .rdyClr ∨ i = .sysReset))) ∧
  (∀ s : State, s.dir = .receive ∨ s.rxWhileTx = .delivered → s.started = .receiving →
    ∃ t, exec .rxEnd s = .next t ∧ t.ready = true) ∧
  (∀ s : State, ∃ t, exec .rdyClr s = .next t ∧ t.ready = false) ∧
  (∀ s : State, ∃ t, exec .sysReset s = .next t ∧ t.ready = false) ∧
  (∀ s : State, ∃ t, exec .rdyPoll s = .next t ∧ t.result = .poll s.ready ∧ t.ready = s.ready)

/-- 42_handoff.md section 1 (D20): RDY.POLL hands back `ready` and RDY.CLR clears it, each completing in every
state and changing nothing else. -/
def Obligations.PollAndClear : Prop :=
  ∀ s : State,
    exec .rdyPoll s = .next { s with result := .poll s.ready } ∧
    exec .rdyClr s = .next { s with ready := false, result := .none }

/-- 42_handoff.md section 2 (R69): an undisturbed drain of a buffer with `count == n` takes n successful pops and
one failing one, returns the bytes oldest first, and leaves the buffer empty with the cursors together. -/
def Obligations.DrainReturnsTheQueue : Prop :=
  ∀ s : State, s.Inv →
    ∃ t, drain (s.count.toNat + 1) s = (s.contents, t) ∧ t.count.toNat = 0 ∧ t.tail = s.head ∧
      t = { s with tail := t.tail, count := t.count, result := .pop none }

/-- 42_handoff.md section 2 (R70): a dispatch with `ready` set hands over the queue and leaves it empty and
`ready` clear; with `ready` clear it only polls. -/
def Obligations.DispatchHandsOverTheMessage : Prop :=
  ∀ s : State, s.Inv →
    (s.ready = true → (dispatch 129 s).1 = some s.contents ∧ (dispatch 129 s).2.ready = false ∧
      (dispatch 129 s).2.count.toNat = 0) ∧
    (s.ready = false → dispatch 129 s = (none, { s with result := .poll false }))

/-- 20_memory.md section 4 (R33, D5): a captured byte and a pop presented at the same instant give, in the two
orders, the same state and the same result where the buffer is neither empty nor full; at the two boundaries they
differ as stated. -/
def Obligations.CoincidingPushAndPop : Prop :=
  ∀ (b : Byte) (s : State), s.Inv → s.started = .receiving → s.dir = .receive →
    ∃ p pc c cp,
      exec (.rxData b) s = .next p ∧ exec .rbPop p = .next pc ∧
      exec .rbPop s = .next c ∧ exec (.rxData b) c = .next cp ∧
      (0 < s.count.toNat → s.count.toNat < 128 →
        pc.result = c.result ∧ cp = { pc with result := .none }) ∧
      (s.count.toNat = 0 → pc.result = .pop (some b) ∧ pc.count.toNat = 0 ∧
        c.result = .pop none ∧ cp.count.toNat = 1) ∧
      (s.count.toNat = 128 → p.count.toNat = 128 ∧ pc.count.toNat = 127 ∧ cp.count.toNat = 128 ∧
        pc.result = c.result)

/-- 70_reset_and_hazards.md section 4 (R102): a frame that completes before the consumer's clear lies in RB with
`ready == 0`. -/
def Obligations.FrameBeforeClearIsUnannounced : Prop :=
  ∀ (p : List Byte) (s : State), pPayload p = true → s.dir = .receive ∨ s.rxWhileTx = .delivered →
    ∃ t, execAll (frame p ++ [.rdyClr, .rdyPoll]) s = .next t ∧ t.result = .poll false ∧ t.contents = p

/-- 70_reset_and_hazards.md section 4 (R103): a start delimiter in the middle of a drain, and the next bytes, make
the rest of the consumer's message the bytes of the new frame. -/
def Obligations.NewFrameDuringDrain : Prop :=
  ∀ (k : Nat) (v : List Byte) (s : State), s.Inv → k ≤ s.count.toNat → v.length ≤ 128 → v.all isData = true →
    s.dir = .receive ∨ s.rxWhileTx = .delivered →
    ∃ t u, drain k s = (s.contents.take k, t) ∧ execAll (.rxStart :: rxs v) t = .next u ∧
      (drain 129 u).1 = v

/-- 70_reset_and_hazards.md section 3 (P-QUIET, log 24): from the end delimiter on, at any point of the dispatch,
while the premise holds and nobody pops, clears or resets, the payload handed over stays as it is and stays
announced. -/
def Obligations.QuietLineKeepsThePayload : Prop :=
  ∀ (ops : List Instr) (ph : DispatchPhase) (s t : State), s.started = .idle → s.ready = true →
    pQuietFrom (some ph) (entriesOf ops s) = true →
    (∀ i ∈ ops, issuer i ≠ .test ∧ i ≠ .rbPop ∧ i ≠ .rdyClr ∧ i ≠ .sysReset) →
    execAll ops s = .next t → t.contents = s.contents ∧ t.ready = true

/-! ## The direction -/

/-- 43_direction.md section 1 (D8) and section 4: in every state exactly one of the two lines is asserted, `dir`
telling which. -/
def Obligations.LinesAreMutuallyExclusive : Prop :=
  ∀ s : State, s.txEn = !s.rxEn ∧ (s.txEn = true ↔ s.dir = .transmit) ∧ (s.txEn = true ↔ s.dir.bit = 1#1)

/-- 43_direction.md sections 1 and 5 (D8, D9; log 10): DIR.TX completes in every state, DIR.RX wherever the
transmitter is free; with a byte in flight DIR.RX switches the lines and the run is marked. Nothing else
changes. -/
def Obligations.DirectionOperations : Prop :=
  (∀ s : State, exec .dirTx s = .next { s with dir := .transmit, result := .none }) ∧
  (∀ s : State, s.txBusy = false → exec .dirRx s = .next { s with dir := .receive, result := .none }) ∧
  (∀ s : State, s.txBusy = true →
    exec .dirRx s = .fault (.txTruncated
      { s with dir := .receive, result := .none, events := s.events ++ [.txTruncated] }))

/-- 43_direction.md sections 2 and 5 (D9; logs 10, 12): TX.BYTE is taken by a free transmitter in Transmit, waits
while the transmitter is busy, and in Receive marks the run and changes nothing of the block. -/
def Obligations.TransmitByteCases : Prop :=
  ∀ (b : Byte) (s : State),
    (s.dir = .transmit → s.txBusy = false →
      exec (.txByte b) s = .next { s with wireOut := s.wireOut ++ [b], txBusy := true, result := .none }) ∧
    (s.dir = .transmit → s.txBusy = true →
      exec (.txByte b) s = .next
        { s with input := { s.input with cons := (0x9#4 ++ b : BitVec (4 + 8)) :: s.input.cons } }) ∧
    (s.dir = .receive →
      exec (.txByte b) s = .fault (.txWhileReceive
        { s with result := .none, events := s.events ++ [.txWhileReceive] }))

/-- 43_direction.md section 2 (D9; log 12): TX.DONE frees a busy transmitter and changes nothing else; with the
transmitter free SHIFT has no step and waits. -/
def Obligations.TransmitDoneCases : Prop :=
  ∀ s : State,
    (s.txBusy = true → exec .txDone s = .next { s with txBusy := false, result := .none }) ∧
    (s.txBusy = false →
      exec .txDone s = .next { s with input := { s.input with shift := 0xA00#12 :: s.input.shift } })

/-- 43_direction.md section 2 (D9; log 12): a byte held at a busy transmitter is taken as soon as SHIFT has
completed the one before, and CONS issues nothing in between. -/
def Obligations.HeldByteProceedsAfterDone : Prop :=
  ∀ (b : Byte) (w d : Cmd) (qc qs : List Cmd) (rest : List (List Agent)) (s : State),
    s.dir = .transmit → s.txBusy = true → decode w = .ok (.txByte b) → decode d = .ok .txDone →
    s.input.cons = w :: qc → s.input.shift = d :: qs →
    s.input.schedule = [.cons] :: [.shift] :: [.cons] :: rest →
    (∃ t, step s = .next t ∧ t = { s with input := t.input } ∧ t.input.cons = w :: qc) ∧
    ∃ u, Sys2Proof.core.run 3 s = .next u ∧ u.wireOut = s.wireOut ++ [b] ∧ u.txBusy = true ∧
      u.input.cons = qc ∧ u.input.shift = qs ∧ u.input.schedule = rest

/-- 70_reset_and_hazards.md section 4 (R108, under D9): while a byte is in flight, no sequence of operations
without TX.DONE and SYS.RESET drives a byte onto the line or frees the transmitter, not even one that goes on, as the
hardware does, after the fault of R76 or R79 (log 10). -/
def Obligations.NothingLeavesABusyTransmitter : Prop :=
  ∀ (ops : List Instr) (s : State), s.txBusy = true → (∀ i ∈ ops, i ≠ .txDone ∧ i ≠ .sysReset) →
    (execOn ops s).txBusy = true ∧ (execOn ops s).wireOut = s.wireOut

/-- 43_direction.md section 3 (R81, D9): a send from a free transmitter drives exactly the framed payload onto the
line and ends in Receive with the transmitter free, everything else as it was. -/
def Obligations.SendDrivesTheFrame : Prop :=
  ∀ (p : List Byte) (s : State), s.txBusy = false →
    execAll (send p) s = .next
      { s with dir := .receive, wireOut := s.wireOut ++ frameBytes p, result := .none }

/-- 70_reset_and_hazards.md section 3 (P-TXSEQ, D9, log 24): from Receive with a free transmitter, a run that
keeps the premise meets neither fault. -/
def Obligations.TransmitDisciplineAvoidsFaults : Prop :=
  ∀ (ops : List Instr) (s : State), s.dir = .receive → s.txBusy = false → pTxSeq (entriesOf ops s) = true →
    ∃ t, execAll ops s = .next t

/-- 70_reset_and_hazards.md section 4 (R110, with RX_WHILE_TX = blocked, D9): bytes that arrive during a
transmission leave FR and RB as they were, and so does the change of direction. -/
def Obligations.TransmittingLeavesTheReceiverAlone : Prop :=
  ∀ (bytes : List Byte) (s : State), s.txBusy = false → s.rxWhileTx = .blocked →
    execAll (.dirTx :: (rxs bytes ++ [.dirRx])) s = .next { s with dir := .receive, result := .none }

/-! ## The whole machine -/

/-- 10_state.md section 1 (R8's table of writers, R24): which operations change which variable, in the state an
operation leaves; the operations not named leave it as it was. -/
def Obligations.WritersOfEachVariable : Prop :=
  ∀ (i : Instr) (s t : State), leftBy (exec i s) = some t →
    (t.store ≠ s.store → (∃ b, i = .rbPush b ∨ i = .rxData b)) ∧
    (t.head ≠ s.head → (∃ b, i = .rbPush b ∨ i = .rxData b) ∨ i = .rbReset ∨ i = .rxStart ∨ i = .sysReset) ∧
    (t.tail ≠ s.tail → i = .rbPop ∨ i = .rbReset ∨ i = .rxStart ∨ i = .sysReset) ∧
    (t.count ≠ s.count → (∃ b, i = .rbPush b ∨ i = .rxData b) ∨ i = .rbPop ∨ i = .rbReset ∨ i = .rxStart ∨
      i = .sysReset) ∧
    (t.started ≠ s.started → i = .rxStart ∨ i = .rxEnd ∨ i = .sysReset) ∧
    (t.ready ≠ s.ready → i = .rxEnd ∨ i = .rdyClr ∨ i = .sysReset) ∧
    (t.dir ≠ s.dir → i = .dirTx ∨ i = .dirRx ∨ i = .sysReset) ∧
    (t.txBusy ≠ s.txBusy → (∃ b, i = .txByte b) ∨ i = .txDone ∨ i = .sysReset) ∧
    (t.wireOut ≠ s.wireOut → (∃ b, i = .txByte b)) ∧
    (t.input ≠ s.input → (∃ b, i = .txByte b) ∨ i = .txDone) ∧
    t.rxWhileTx = s.rxWhileTx

/-- 41_frame_receiver.md section 3 (R66): with any other `ready` and any other store FR does the same; it stores the
same byte in the same cell of that other store, or nothing; it sets `ready` at an end delimiter delivered while
Receiving and leaves the other `ready` as it is elsewhere. It never clears `ready`, never moves `tail` but to 0, and
never touches `dir`. -/
def Obligations.ReceiverIgnoresReadyAndStore : Prop :=
  ∀ (b : Byte) (r : Bool) (m : Memory) (s : State),
    ∃ t, exec (rxByte b) s = .next t ∧
      exec (rxByte b) { s with ready := r, store := m } = .next
        { t with
          ready := if rxByte b = .rxEnd ∧ s.rxEnabled = true ∧ s.started = .receiving then true else r
          store := if (storedCell (rxByte b) s).isSome then Memory.write m s.head.toNat b else m } ∧
      (s.ready = true → t.ready = true) ∧ (t.tail = s.tail ∨ t.tail = 0) ∧ t.dir = s.dir ∧
      (t.result = .none ∨ t = s)

/-- 60_exceptions.md section 6 (R93, D24; log 19): what a board hears from its peer is queued byte by byte and in
order while it is in Receive, and lost while it transmits and is blocked. -/
def Obligations.PeerBytesArriveInOrder : Prop :=
  ∀ (bytes : List Byte) (n : Nat) (s : State),
    (s.dir = .receive → (s.hear n bytes).input.prod =
      s.input.prod ++ bytes.map fun b => (0x4#4 ++ b : BitVec (4 + 8))) ∧
    (s.dir = .transmit → s.rxWhileTx = .blocked → s.hear n bytes = s)

/-- 60_exceptions.md section 6 (R93, D24; log 19) with 41_frame_receiver.md section 3 (R65): the bytes of a frame
heard by a board in Receive that has nothing else to do become, step by step, the payload it announces. -/
def Obligations.HeardFrameIsAnnounced : Prop :=
  ∀ (p : List Byte) (n : Nat) (s : State), pPayload p = true → s.dir = .receive → s.input = Input.empty →
    ∃ t, Sys2Proof.core.run (p.length + 2) (s.hear n (frameBytes p)) = .next t ∧
      t.ready = true ∧ t.contents = p ∧ t.input = Input.empty
end

