-- ==== Sys2Proof/Laws/PerInstr.lean ====
section
/-! SUPPORT. Statements made for each operation: the operation code stands in bits 11 to 8 of its word, and
the operand in bits 7 to 0 (R43). -/

namespace Sys2Proof.Laws.OpField

/-- The two fields of an operation's canonical word are its operation code and its operand (R43, R45). -/
def Statement (i : Instr) : Prop := Cmd.op (encode i) = opcode i ∧ Cmd.data (encode i) = operand i

/-- The number a word of two fields stands for. -/
theorem toNat_word (op : BitVec 4) (d : Byte) :
    (op ++ d : BitVec (4 + 8)).toNat = 2 ^ 8 * op.toNat + d.toNat := by
  rw [BitVec.toNat_append, Nat.shiftLeft_eq, Nat.mul_comm, ← Nat.two_pow_add_eq_or_of_lt d.isLt]

/-- The fields of a word put together from a code and a byte are that code and that byte. -/
theorem fields (op : BitVec 4) (d : Byte) : Cmd.op (op ++ d) = op ∧ Cmd.data (op ++ d) = d := by
  have hop := op.isLt
  have hd := d.isLt
  constructor <;> apply BitVec.eq_of_toNat_eq
  · change ((op ++ d : BitVec (4 + 8)).extractLsb' 8 4).toNat = op.toNat
    rw [BitVec.extractLsb'_toNat, toNat_word, Nat.shiftRight_eq_div_pow]
    omega
  · change ((op ++ d : BitVec (4 + 8)).extractLsb' 0 8).toNat = d.toNat
    rw [BitVec.extractLsb'_toNat, toNat_word, Nat.shiftRight_zero]
    omega

theorem rbPush (b : Byte) : Statement (.rbPush b) := fields _ _
theorem rbPop : Statement .rbPop := fields _ _
theorem rbReset : Statement .rbReset := fields _ _
theorem rxStart : Statement .rxStart := fields _ _
theorem rxEnd : Statement .rxEnd := fields _ _
theorem rxData (b : Byte) : Statement (.rxData b) := fields _ _
theorem rdyPoll : Statement .rdyPoll := fields _ _
theorem rdyClr : Statement .rdyClr := fields _ _
theorem dirTx : Statement .dirTx := fields _ _
theorem dirRx : Statement .dirRx := fields _ _
theorem txByte (b : Byte) : Statement (.txByte b) := fields _ _
theorem txDone : Statement .txDone := fields _ _
theorem sysReset : Statement .sysReset := fields _ _

end Sys2Proof.Laws.OpField
end

