-- ==== Sys2Proof/Laws/Decode.lean ====
section
/-! SUPPORT. What the decoder does with the fields of a word. -/

namespace Sys2Proof

/-- The fields of an operation's canonical word. -/
@[simp] theorem op_encode (i : Instr) : Cmd.op (encode i) = opcode i := (Laws.OpField.fields _ _).1

@[simp] theorem data_encode (i : Instr) : Cmd.data (encode i) = operand i := (Laws.OpField.fields _ _).2

/-- A word is its two fields put together. -/
theorem word_of_fields (w : Cmd) : (Cmd.op w ++ Cmd.data w : BitVec (4 + 8)) = w := by
  apply BitVec.eq_of_toNat_eq
  rw [Laws.OpField.toNat_word]
  simp [Cmd.op, Cmd.data, BitVec.extractLsb'_toNat, Nat.shiftRight_eq_div_pow]
  have := w.isLt
  omega

/-- Every operation code, one by one. -/
theorem code_cases (op : BitVec 4) :
    op = 0x0#4 ∨ op = 0x1#4 ∨ op = 0x2#4 ∨ op = 0x3#4 ∨ op = 0x4#4 ∨ op = 0x5#4 ∨ op = 0x6#4 ∨
    op = 0x7#4 ∨ op = 0x8#4 ∨ op = 0x9#4 ∨ op = 0xA#4 ∨ op = 0xB#4 ∨ op = 0xC#4 ∨ op = 0xD#4 ∨
    op = 0xE#4 ∨ op = 0xF#4 := by
  revert op; decide

/-- Everything the class of a received byte can be. -/
theorem rxByte_cases (b : Byte) :
    (b = Config.startByte ∧ rxByte b = .rxStart) ∨ (b = Config.endByte ∧ rxByte b = .rxEnd) ∨
    (b ≠ Config.startByte ∧ b ≠ Config.endByte ∧ rxByte b = .rxData b) := by
  by_cases hs : b = Config.startByte
  · exact .inl ⟨hs, by simp [rxByte, hs]⟩
  · by_cases he : b = Config.endByte
    · refine .inr (.inl ⟨he, ?_⟩)
      simp [rxByte, he, show ¬ Config.endByte = Config.startByte by decide]
    · exact .inr (.inr ⟨hs, he, by simp [rxByte, hs, he]⟩)

end Sys2Proof
end

