-- ==== Sys2Proof/Laws/Memory.lean ====
section
/-! SUPPORT. The laws of the two memory primitives. -/

namespace Sys2Proof.Machine

/-- A cell just written is listed with the byte written. -/
@[simp] theorem Memory.lookup_write_self (m : Memory) (a : Nat) (v : Byte) :
    Memory.lookup (Memory.write m a v) a = some v := by
  induction m with
  | nil => simp [Memory.write, Memory.lookup]
  | cons c m ih =>
    obtain ⟨k, w⟩ := c
    by_cases hlt : a < k
    · simp [Memory.write, Memory.lookup, hlt]
    · by_cases heq : a = k
      · simp [Memory.write, Memory.lookup, heq]
      · have : k ≠ a := fun h => heq h.symm
        simp [Memory.write, Memory.lookup, hlt, heq, this, ih]

/-- A write leaves every other cell as it was listed. -/
theorem Memory.lookup_write_other (m : Memory) {a b : Nat} (v : Byte) (h : b ≠ a) :
    Memory.lookup (Memory.write m a v) b = Memory.lookup m b := by
  have h' : a ≠ b := fun e => h e.symm
  induction m with
  | nil => simp [Memory.write, Memory.lookup, h']
  | cons c m ih =>
    obtain ⟨k, w⟩ := c
    by_cases hlt : a < k
    · simp [Memory.write, Memory.lookup, hlt, h']
    · by_cases heq : a = k
      · subst heq
        simp [Memory.write, Memory.lookup, h']
      · simp [Memory.write, Memory.lookup, hlt, heq, ih]

/-- Everything a write can do to what a cell is listed with. -/
theorem Memory.lookup_write (m : Memory) (a b : Nat) (v : Byte) :
    Memory.lookup (Memory.write m a v) b = if b = a then some v else Memory.lookup m b := by
  split
  · rename_i h; rw [h, Memory.lookup_write_self]
  · rename_i h; exact Memory.lookup_write_other m v h

/-- A write keeps the indices rising and inside the address space. -/
theorem Memory.risingFrom_write (m : Memory) {lo a : Nat} (v : Byte) (hlo : lo ≤ a)
    (ha : a < Config.capacity) (hm : Memory.risingFrom lo m = true) :
    Memory.risingFrom lo (Memory.write m a v) = true := by
  induction m generalizing lo with
  | nil => simp [Memory.write, Memory.risingFrom, hlo, ha]
  | cons c m ih =>
    obtain ⟨k, w⟩ := c
    simp only [Memory.risingFrom, Bool.and_eq_true, decide_eq_true_eq] at hm
    obtain ⟨⟨hk, hk'⟩, hrest⟩ := hm
    by_cases hlt : a < k
    · have : a + 1 ≤ k := hlt
      simp [Memory.write, Memory.risingFrom, hlt, hlo, ha, hk', hrest, this]
    · by_cases heq : a = k
      · subst heq
        simp [Memory.write, Memory.risingFrom, hlo, ha, hrest]
      · have hka : k + 1 ≤ a := by omega
        simp [Memory.write, Memory.risingFrom, hlt, heq, hk, hk', ih hka hrest]

/-- A write keeps the canonical form; a read changes no memory. -/
theorem Memory.wf_write {m : Memory} {a : Nat} (v : Byte) (ha : a < Config.capacity)
    (hm : Memory.wf m = true) : Memory.wf (Memory.write m a v) = true :=
  Memory.risingFrom_write m v (Nat.zero_le a) ha hm

/-- Reset memory is in the canonical form. -/
theorem reset_store_wf : Memory.wf State.reset.store = true := rfl

end Sys2Proof.Machine
end

