-- ==== Sys2Proof/Laws/State.lean ====
section
/-! SUPPORT. One lemma per field per update of the state, each true by unfolding the update once. -/

namespace Sys2Proof.Machine

/-! ## rbReset -/

@[simp] theorem State.rbReset_store (s : State) : (s.rbReset).store = s.store := rfl
@[simp] theorem State.rbReset_head (s : State) : (s.rbReset).head = 0 := rfl
@[simp] theorem State.rbReset_tail (s : State) : (s.rbReset).tail = 0 := rfl
@[simp] theorem State.rbReset_count (s : State) : (s.rbReset).count = 0 := rfl
@[simp] theorem State.rbReset_started (s : State) : (s.rbReset).started = s.started := rfl
@[simp] theorem State.rbReset_ready (s : State) : (s.rbReset).ready = s.ready := rfl
@[simp] theorem State.rbReset_dir (s : State) : (s.rbReset).dir = s.dir := rfl
@[simp] theorem State.rbReset_txBusy (s : State) : (s.rbReset).txBusy = s.txBusy := rfl
@[simp] theorem State.rbReset_wireOut (s : State) : (s.rbReset).wireOut = s.wireOut := rfl
@[simp] theorem State.rbReset_result (s : State) : (s.rbReset).result = s.result := rfl
@[simp] theorem State.rbReset_events (s : State) : (s.rbReset).events = s.events := rfl
@[simp] theorem State.rbReset_input (s : State) : (s.rbReset).input = s.input := rfl
@[simp] theorem State.rbReset_rxWhileTx (s : State) : (s.rbReset).rxWhileTx = s.rxWhileTx := rfl

/-! ## append -/

@[simp] theorem State.append_store (s : State) (b : Byte) :
    (s.append b).store = Memory.write s.store s.head.toNat b := rfl
@[simp] theorem State.append_head (s : State) (b : Byte) : (s.append b).head = advance s.head := rfl
@[simp] theorem State.append_tail (s : State) (b : Byte) : (s.append b).tail = s.tail := rfl
@[simp] theorem State.append_count (s : State) (b : Byte) : (s.append b).count = s.count + 1 := rfl
@[simp] theorem State.append_started (s : State) (b : Byte) : (s.append b).started = s.started := rfl
@[simp] theorem State.append_ready (s : State) (b : Byte) : (s.append b).ready = s.ready := rfl
@[simp] theorem State.append_dir (s : State) (b : Byte) : (s.append b).dir = s.dir := rfl
@[simp] theorem State.append_txBusy (s : State) (b : Byte) : (s.append b).txBusy = s.txBusy := rfl
@[simp] theorem State.append_wireOut (s : State) (b : Byte) : (s.append b).wireOut = s.wireOut := rfl
@[simp] theorem State.append_result (s : State) (b : Byte) : (s.append b).result = s.result := rfl
@[simp] theorem State.append_events (s : State) (b : Byte) : (s.append b).events = s.events := rfl
@[simp] theorem State.append_input (s : State) (b : Byte) : (s.append b).input = s.input := rfl
@[simp] theorem State.append_rxWhileTx (s : State) (b : Byte) : (s.append b).rxWhileTx = s.rxWhileTx := rfl

/-! ## dropOldest -/

@[simp] theorem State.dropOldest_store (s : State) : (s.dropOldest).store = s.store := rfl
@[simp] theorem State.dropOldest_head (s : State) : (s.dropOldest).head = s.head := rfl
@[simp] theorem State.dropOldest_tail (s : State) : (s.dropOldest).tail = advance s.tail := rfl
@[simp] theorem State.dropOldest_count (s : State) : (s.dropOldest).count = s.count - 1 := rfl
@[simp] theorem State.dropOldest_started (s : State) : (s.dropOldest).started = s.started := rfl
@[simp] theorem State.dropOldest_ready (s : State) : (s.dropOldest).ready = s.ready := rfl
@[simp] theorem State.dropOldest_dir (s : State) : (s.dropOldest).dir = s.dir := rfl
@[simp] theorem State.dropOldest_txBusy (s : State) : (s.dropOldest).txBusy = s.txBusy := rfl
@[simp] theorem State.dropOldest_wireOut (s : State) : (s.dropOldest).wireOut = s.wireOut := rfl
@[simp] theorem State.dropOldest_result (s : State) : (s.dropOldest).result = s.result := rfl
@[simp] theorem State.dropOldest_events (s : State) : (s.dropOldest).events = s.events := rfl
@[simp] theorem State.dropOldest_input (s : State) : (s.dropOldest).input = s.input := rfl
@[simp] theorem State.dropOldest_rxWhileTx (s : State) : (s.dropOldest).rxWhileTx = s.rxWhileTx := rfl

/-! ## give -/

@[simp] theorem State.give_store (s : State) (r : Result) : (s.give r).store = s.store := rfl
@[simp] theorem State.give_head (s : State) (r : Result) : (s.give r).head = s.head := rfl
@[simp] theorem State.give_tail (s : State) (r : Result) : (s.give r).tail = s.tail := rfl
@[simp] theorem State.give_count (s : State) (r : Result) : (s.give r).count = s.count := rfl
@[simp] theorem State.give_started (s : State) (r : Result) : (s.give r).started = s.started := rfl
@[simp] theorem State.give_ready (s : State) (r : Result) : (s.give r).ready = s.ready := rfl
@[simp] theorem State.give_dir (s : State) (r : Result) : (s.give r).dir = s.dir := rfl
@[simp] theorem State.give_txBusy (s : State) (r : Result) : (s.give r).txBusy = s.txBusy := rfl
@[simp] theorem State.give_wireOut (s : State) (r : Result) : (s.give r).wireOut = s.wireOut := rfl
@[simp] theorem State.give_result (s : State) (r : Result) : (s.give r).result = r := rfl
@[simp] theorem State.give_events (s : State) (r : Result) : (s.give r).events = s.events := rfl
@[simp] theorem State.give_input (s : State) (r : Result) : (s.give r).input = s.input := rfl
@[simp] theorem State.give_rxWhileTx (s : State) (r : Result) : (s.give r).rxWhileTx = s.rxWhileTx := rfl

/-! ## note -/

@[simp] theorem State.note_store (s : State) (e : Event) : (s.note e).store = s.store := rfl
@[simp] theorem State.note_head (s : State) (e : Event) : (s.note e).head = s.head := rfl
@[simp] theorem State.note_tail (s : State) (e : Event) : (s.note e).tail = s.tail := rfl
@[simp] theorem State.note_count (s : State) (e : Event) : (s.note e).count = s.count := rfl
@[simp] theorem State.note_started (s : State) (e : Event) : (s.note e).started = s.started := rfl
@[simp] theorem State.note_ready (s : State) (e : Event) : (s.note e).ready = s.ready := rfl
@[simp] theorem State.note_dir (s : State) (e : Event) : (s.note e).dir = s.dir := rfl
@[simp] theorem State.note_txBusy (s : State) (e : Event) : (s.note e).txBusy = s.txBusy := rfl
@[simp] theorem State.note_wireOut (s : State) (e : Event) : (s.note e).wireOut = s.wireOut := rfl
@[simp] theorem State.note_result (s : State) (e : Event) : (s.note e).result = s.result := rfl
@[simp] theorem State.note_events (s : State) (e : Event) : (s.note e).events = s.events ++ [e] := rfl
@[simp] theorem State.note_input (s : State) (e : Event) : (s.note e).input = s.input := rfl
@[simp] theorem State.note_rxWhileTx (s : State) (e : Event) : (s.note e).rxWhileTx = s.rxWhileTx := rfl

/-! ## setQueue -/

@[simp] theorem State.setQueue_store (s : State) (a : Agent) (q : List Cmd) :
    (s.setQueue a q).store = s.store := rfl
@[simp] theorem State.setQueue_head (s : State) (a : Agent) (q : List Cmd) :
    (s.setQueue a q).head = s.head := rfl
@[simp] theorem State.setQueue_tail (s : State) (a : Agent) (q : List Cmd) :
    (s.setQueue a q).tail = s.tail := rfl
@[simp] theorem State.setQueue_count (s : State) (a : Agent) (q : List Cmd) :
    (s.setQueue a q).count = s.count := rfl
@[simp] theorem State.setQueue_started (s : State) (a : Agent) (q : List Cmd) :
    (s.setQueue a q).started = s.started := rfl
@[simp] theorem State.setQueue_ready (s : State) (a : Agent) (q : List Cmd) :
    (s.setQueue a q).ready = s.ready := rfl
@[simp] theorem State.setQueue_dir (s : State) (a : Agent) (q : List Cmd) :
    (s.setQueue a q).dir = s.dir := rfl
@[simp] theorem State.setQueue_txBusy (s : State) (a : Agent) (q : List Cmd) :
    (s.setQueue a q).txBusy = s.txBusy := rfl
@[simp] theorem State.setQueue_wireOut (s : State) (a : Agent) (q : List Cmd) :
    (s.setQueue a q).wireOut = s.wireOut := rfl
@[simp] theorem State.setQueue_result (s : State) (a : Agent) (q : List Cmd) :
    (s.setQueue a q).result = s.result := rfl
@[simp] theorem State.setQueue_events (s : State) (a : Agent) (q : List Cmd) :
    (s.setQueue a q).events = s.events := rfl
@[simp] theorem State.setQueue_input (s : State) (a : Agent) (q : List Cmd) :
    (s.setQueue a q).input = s.input.setQueue a q := rfl
@[simp] theorem State.setQueue_rxWhileTx (s : State) (a : Agent) (q : List Cmd) :
    (s.setQueue a q).rxWhileTx = s.rxWhileTx := rfl

/-! ## setSchedule -/

@[simp] theorem State.setSchedule_store (s : State) (l : List (List Agent)) :
    (s.setSchedule l).store = s.store := rfl
@[simp] theorem State.setSchedule_head (s : State) (l : List (List Agent)) :
    (s.setSchedule l).head = s.head := rfl
@[simp] theorem State.setSchedule_tail (s : State) (l : List (List Agent)) :
    (s.setSchedule l).tail = s.tail := rfl
@[simp] theorem State.setSchedule_count (s : State) (l : List (List Agent)) :
    (s.setSchedule l).count = s.count := rfl
@[simp] theorem State.setSchedule_started (s : State) (l : List (List Agent)) :
    (s.setSchedule l).started = s.started := rfl
@[simp] theorem State.setSchedule_ready (s : State) (l : List (List Agent)) :
    (s.setSchedule l).ready = s.ready := rfl
@[simp] theorem State.setSchedule_dir (s : State) (l : List (List Agent)) :
    (s.setSchedule l).dir = s.dir := rfl
@[simp] theorem State.setSchedule_txBusy (s : State) (l : List (List Agent)) :
    (s.setSchedule l).txBusy = s.txBusy := rfl
@[simp] theorem State.setSchedule_wireOut (s : State) (l : List (List Agent)) :
    (s.setSchedule l).wireOut = s.wireOut := rfl
@[simp] theorem State.setSchedule_result (s : State) (l : List (List Agent)) :
    (s.setSchedule l).result = s.result := rfl
@[simp] theorem State.setSchedule_events (s : State) (l : List (List Agent)) :
    (s.setSchedule l).events = s.events := rfl
@[simp] theorem State.setSchedule_input (s : State) (l : List (List Agent)) :
    (s.setSchedule l).input = { s.input with schedule := l } := rfl
@[simp] theorem State.setSchedule_rxWhileTx (s : State) (l : List (List Agent)) :
    (s.setSchedule l).rxWhileTx = s.rxWhileTx := rfl

/-! ## setDir -/

@[simp] theorem State.setDir_store (s : State) (d : Direction) : (s.setDir d).store = s.store := rfl
@[simp] theorem State.setDir_head (s : State) (d : Direction) : (s.setDir d).head = s.head := rfl
@[simp] theorem State.setDir_tail (s : State) (d : Direction) : (s.setDir d).tail = s.tail := rfl
@[simp] theorem State.setDir_count (s : State) (d : Direction) : (s.setDir d).count = s.count := rfl
@[simp] theorem State.setDir_started (s : State) (d : Direction) : (s.setDir d).started = s.started := rfl
@[simp] theorem State.setDir_ready (s : State) (d : Direction) : (s.setDir d).ready = s.ready := rfl
@[simp] theorem State.setDir_dir (s : State) (d : Direction) : (s.setDir d).dir = d := rfl
@[simp] theorem State.setDir_txBusy (s : State) (d : Direction) : (s.setDir d).txBusy = s.txBusy := rfl
@[simp] theorem State.setDir_wireOut (s : State) (d : Direction) : (s.setDir d).wireOut = s.wireOut := rfl
@[simp] theorem State.setDir_result (s : State) (d : Direction) : (s.setDir d).result = s.result := rfl
@[simp] theorem State.setDir_events (s : State) (d : Direction) : (s.setDir d).events = s.events := rfl
@[simp] theorem State.setDir_input (s : State) (d : Direction) : (s.setDir d).input = s.input := rfl
@[simp] theorem State.setDir_rxWhileTx (s : State) (d : Direction) :
    (s.setDir d).rxWhileTx = s.rxWhileTx := rfl

/-! ## accept -/

@[simp] theorem State.accept_store (s : State) (b : Byte) : (s.accept b).store = s.store := rfl
@[simp] theorem State.accept_head (s : State) (b : Byte) : (s.accept b).head = s.head := rfl
@[simp] theorem State.accept_tail (s : State) (b : Byte) : (s.accept b).tail = s.tail := rfl
@[simp] theorem State.accept_count (s : State) (b : Byte) : (s.accept b).count = s.count := rfl
@[simp] theorem State.accept_started (s : State) (b : Byte) : (s.accept b).started = s.started := rfl
@[simp] theorem State.accept_ready (s : State) (b : Byte) : (s.accept b).ready = s.ready := rfl
@[simp] theorem State.accept_dir (s : State) (b : Byte) : (s.accept b).dir = s.dir := rfl
@[simp] theorem State.accept_txBusy (s : State) (b : Byte) : (s.accept b).txBusy = true := rfl
@[simp] theorem State.accept_wireOut (s : State) (b : Byte) : (s.accept b).wireOut = s.wireOut ++ [b] := rfl
@[simp] theorem State.accept_result (s : State) (b : Byte) : (s.accept b).result = s.result := rfl
@[simp] theorem State.accept_events (s : State) (b : Byte) : (s.accept b).events = s.events := rfl
@[simp] theorem State.accept_input (s : State) (b : Byte) : (s.accept b).input = s.input := rfl
@[simp] theorem State.accept_rxWhileTx (s : State) (b : Byte) : (s.accept b).rxWhileTx = s.rxWhileTx := rfl

/-! ## The queues of the input -/

@[simp] theorem Input.queue_setQueue_self (inp : Input) (a : Agent) (q : List Cmd) :
    (inp.setQueue a q).queue a = q := by cases a <;> rfl

theorem Input.queue_setQueue_other (inp : Input) {a b : Agent} (q : List Cmd) (h : b ≠ a) :
    (inp.setQueue a q).queue b = inp.queue b := by
  cases a <;> cases b <;> first | rfl | exact absurd rfl h

@[simp] theorem Input.setQueue_schedule (inp : Input) (a : Agent) (q : List Cmd) :
    (inp.setQueue a q).schedule = inp.schedule := by cases a <;> rfl

@[simp] theorem Input.queue_withSchedule (inp : Input) (l : List (List Agent)) (a : Agent) :
    Input.queue { inp with schedule := l } a = inp.queue a := by cases a <;> rfl

end Sys2Proof.Machine
end

