-- ==== Sys2Proof/Laws/Ops.lean ====
section
/-! SUPPORT. For each shared operation, once, everything it can do; and the number a cursor or the count
stands for after it. -/

namespace Sys2Proof.Machine

/-! ## Numbers -/

/-- The cursor as an index is inside the address space (R27). -/
theorem cursor_lt (x : Cursor) : x.toNat < Config.capacity := x.isLt

/-- Below the top of its range the count goes up by one without wrapping (R56). -/
theorem count_succ {c : Count} (h : c.toNat < 255) : (c + 1).toNat = c.toNat + 1 := by
  rw [BitVec.toNat_add]
  change (c.toNat + 1) % 256 = c.toNat + 1
  omega

/-- Above zero the count goes down by one without wrapping (R56). -/
theorem count_pred {c : Count} (h : 0 < c.toNat) : (c - 1).toNat = c.toNat - 1 := by
  have := c.isLt
  rw [BitVec.toNat_sub]
  change (256 - 1 + c.toNat) % 256 = c.toNat - 1
  omega

/-- `full` as a number. -/
theorem State.full_iff (s : State) : s.full = true ↔ s.count.toNat = 128 := by
  simp only [State.full, beq_iff_eq]
  exact ⟨fun h => by rw [h]; rfl, fun h => BitVec.eq_of_toNat_eq h⟩

/-- `empty` as a number. -/
theorem State.empty_iff (s : State) : s.empty = true ↔ s.count.toNat = 0 := by
  simp only [State.empty, beq_iff_eq]
  exact ⟨fun h => by rw [h]; rfl, fun h => BitVec.eq_of_toNat_eq h⟩

/-! ## The ring buffer -/

/-- Everything a push can do. -/
theorem State.rbPush_cases (s : State) (b : Byte) :
    (s.full = true ∧ s.rbPush b = (s, false)) ∨ (s.full = false ∧ s.rbPush b = (s.append b, true)) := by
  cases h : s.full <;> simp [State.rbPush, h]

/-- Everything a pop can do. -/
theorem State.rbPop_cases (s : State) :
    (s.empty = true ∧ s.rbPop = (s, none)) ∨
    (s.empty = false ∧ s.rbPop = (s.dropOldest, some s.oldest)) := by
  cases h : s.empty <;> simp [State.rbPop, h]

/-! ## The frame receiver -/

/-- Whether a byte is delivered, in terms of the direction and the parameter. -/
theorem State.rxEnabled_iff (s : State) :
    s.rxEnabled = true ↔ s.dir = .receive ∨ s.rxWhileTx = .delivered := by
  simp [State.rxEnabled]

/-- Everything the gate of the receiver can do. -/
theorem State.deliver_cases (s t : State) :
    (s.rxEnabled = true ∧ s.deliver t = t) ∨ (s.rxEnabled = false ∧ s.deliver t = s) := by
  cases h : s.rxEnabled <;> simp [State.deliver, h]

/-- Everything a captured byte can do. -/
theorem State.captureByte_cases (s : State) (b : Byte) :
    (s.started = .idle ∧ s.captureByte b = s) ∨
    (s.started = .receiving ∧ s.full = true ∧ s.captureByte b = s.note .bufferOverflow) ∨
    (s.started = .receiving ∧ s.full = false ∧ s.captureByte b = s.append b) := by
  cases h : s.started <;> cases hf : s.full <;> simp [State.captureByte, State.rbPush, h, hf]

/-! ## Waiting -/

/-- A step not taken changes nothing but the queue the operation goes back to. -/
theorem State.wait_eq (s : State) (i : Instr) : ∃ inp, s.wait i = { s with input := inp } :=
  ⟨_, rfl⟩

end Sys2Proof.Machine
end

