-- ==== Sys2Proof/Laws/Exec.lean ====
section
/-! SUPPORT. Once, everything the execution of an operation can leave, in terms of the shared operations: later
proofs cite this and need not unfold a meaning. -/

namespace Sys2Proof.Machine

/-- `t` is a state that operation `i` may leave in state `s`, whether the outcome is a next state or a fault. -/
def Effect (i : Instr) (s t : State) : Prop :=
  match i with
  | .rbPush b =>
    (s.full = true ∧ t = s.give (.push false)) ∨ (s.full = false ∧ t = (s.append b).give (.push true))
  | .rbPop =>
    (s.empty = true ∧ t = s.give (.pop none)) ∨
    (s.empty = false ∧ t = s.dropOldest.give (.pop (some s.oldest)))
  | .rbReset => t = s.rbReset.give .none
  | .rxStart =>
    (s.rxEnabled = false ∧ t = s) ∨
    (s.rxEnabled = true ∧ s.started = .idle ∧ t = State.give { s.rbReset with started := .receiving } .none) ∨
    (s.rxEnabled = true ∧ s.started = .receiving ∧
      t = State.give { (s.note .startBeforeClose).rbReset with started := .receiving } .none)
  | .rxEnd =>
    (s.rxEnabled = false ∧ t = s) ∨
    (s.rxEnabled = true ∧ s.started = .idle ∧ t = (s.note .endWithoutStart).give .none) ∨
    (s.rxEnabled = true ∧ s.started = .receiving ∧
      t = State.give { s with started := .idle, ready := true } .none)
  | .rxData b =>
    (s.rxEnabled = false ∧ t = s) ∨
    (s.rxEnabled = true ∧ s.started = .idle ∧ t = s.give .none) ∨
    (s.rxEnabled = true ∧ s.started = .receiving ∧ s.full = true ∧ t = (s.note .bufferOverflow).give .none) ∨
    (s.rxEnabled = true ∧ s.started = .receiving ∧ s.full = false ∧ t = (s.append b).give .none)
  | .rdyPoll => t = s.give (.poll s.ready)
  | .rdyClr => t = State.give { s with ready := false } .none
  | .dirTx => t = (s.setDir .transmit).give .none
  | .dirRx =>
    (s.txBusy = false ∧ t = (s.setDir .receive).give .none) ∨
    (s.txBusy = true ∧ t = ((s.setDir .receive).note .txTruncated).give .none)
  | .txByte b =>
    (s.dir = .receive ∧ t = (s.note .txWhileReceive).give .none) ∨
    (s.dir = .transmit ∧ s.txBusy = true ∧ t = s.wait (.txByte b)) ∨
    (s.dir = .transmit ∧ s.txBusy = false ∧ t = (s.accept b).give .none)
  | .txDone =>
    (s.txBusy = true ∧ t = State.give { s with txBusy := false } .none) ∨
    (s.txBusy = false ∧ t = s.wait .txDone)
  | .sysReset =>
    t = State.give
      { s.rbReset with started := .idle, ready := false, dir := .receive, txBusy := false } .none

/-- Every execution leaves a state, and one that the effect of its operation allows. -/
theorem leftBy_exec (i : Instr) (s : State) : ∃ t, leftBy (exec i s) = some t ∧ Effect i s t := by
  cases i with
  | rbPush b =>
    refine ⟨_, rfl, ?_⟩
    obtain ⟨h, e⟩ | ⟨h, e⟩ := s.rbPush_cases b <;> simp [Effect, e, h]
  | rbPop =>
    refine ⟨_, rfl, ?_⟩
    obtain ⟨h, e⟩ | ⟨h, e⟩ := s.rbPop_cases <;> simp [Effect, e, h]
  | rbReset => exact ⟨_, rfl, rfl⟩
  | rxStart =>
    refine ⟨_, rfl, ?_⟩
    obtain ⟨h, e⟩ | ⟨h, e⟩ := s.deliver_cases (s.startFrame.give .none) <;> rw [e]
    · cases hs : s.started <;> simp [Effect, h, hs, State.startFrame]
    · simp [Effect, h]
  | rxEnd =>
    refine ⟨_, rfl, ?_⟩
    obtain ⟨h, e⟩ | ⟨h, e⟩ := s.deliver_cases (s.endFrame.give .none) <;> rw [e]
    · cases hs : s.started <;> simp [Effect, h, hs, State.endFrame]
    · simp [Effect, h]
  | rxData b =>
    refine ⟨_, rfl, ?_⟩
    obtain ⟨h, e⟩ | ⟨h, e⟩ := s.deliver_cases ((s.captureByte b).give .none) <;> rw [e]
    · obtain ⟨hs, e⟩ | ⟨hs, hf, e⟩ | ⟨hs, hf, e⟩ := s.captureByte_cases b <;> simp [Effect, *]
    · simp [Effect, h]
  | rdyPoll => exact ⟨_, rfl, rfl⟩
  | rdyClr => exact ⟨_, rfl, rfl⟩
  | dirTx => exact ⟨_, rfl, rfl⟩
  | dirRx =>
    cases h : s.txBusy <;>
      simp [exec, execDirRx, leftBy, Fault.after, State.markFault, Effect, h]
  | txByte b =>
    cases hd : s.dir <;> cases h : s.txBusy <;>
      simp [exec, execTxByte, leftBy, Fault.after, State.markFault, Effect, hd, h]
  | txDone => cases h : s.txBusy <;> simp [exec, execTxDone, leftBy, Effect, h]
  | sysReset => exact ⟨_, rfl, rfl⟩

/-- Inversion: what is left by an execution is what its effect allows. -/
theorem effect_of_leftBy {i : Instr} {s t : State} (h : leftBy (exec i s) = some t) : Effect i s t := by
  obtain ⟨t', h', e⟩ := leftBy_exec i s
  rw [h] at h'
  cases h'
  exact e

/-- A next state is left. -/
theorem leftBy_of_next {i : Instr} {s t : State} (h : exec i s = .next t) : leftBy (exec i s) = some t := by
  rw [h]; rfl

/-- The state a fault carries is left. -/
theorem leftBy_of_fault {i : Instr} {s : State} {r : Fault} (h : exec i s = .fault r) :
    leftBy (exec i s) = some r.after := by
  rw [h]; rfl

/-- The outcome is a next state, except for the two misuses of the transmit path. -/
theorem exec_next_unless_misuse (i : Instr) (s : State)
    (hr : i = .dirRx → s.txBusy = false) (ht : ∀ b, i = .txByte b → s.dir = .transmit) :
    ∃ t, exec i s = .next t ∧ Effect i s t := by
  obtain ⟨t, h, e⟩ := leftBy_exec i s
  refine ⟨t, ?_, e⟩
  cases i with
  | dirRx =>
    have hb := hr rfl
    simp only [exec, execDirRx, hb] at h ⊢
    simpa [leftBy] using h
  | txByte b =>
    have hd := ht b rfl
    simp only [exec, execTxByte, hd] at h ⊢
    simpa [leftBy] using h
  | txDone =>
    simp only [exec, execTxDone] at h ⊢
    simpa [leftBy] using h
  | rbPush b => cases h; rfl
  | rbPop => cases h; rfl
  | rbReset => cases h; rfl
  | rxStart => cases h; rfl
  | rxEnd => cases h; rfl
  | rxData b => cases h; rfl
  | rdyPoll => cases h; rfl
  | rdyClr => cases h; rfl
  | dirTx => cases h; rfl
  | sysReset => cases h; rfl

/-! ## Runs that go on after a fault mark -/

/-- One operation of such a run: it goes on from the state the operation leaves. -/
theorem execOn_cons {i : Instr} {s t : State} (h : leftBy (exec i s) = some t) (is : List Instr) :
    execOn (i :: is) s = execOn is t := by
  cases e : exec i s <;> rw [e] at h <;> cases h <;> simp [execOn, e]

/-- Where a run meets no fault, it is the run that stops at the first one. -/
theorem execOn_of_execAll {is : List Instr} {s t : State} (h : execAll is s = .next t) : execOn is s = t := by
  induction is generalizing s with
  | nil => cases h; rfl
  | cons i is ih =>
    simp only [execAll] at h
    cases e : exec i s with
    | next u => rw [execOn_cons (leftBy_of_next e)]; exact ih (by simpa [e] using h)
    | fault r => simp [e] at h
    | refused r => simp [e] at h

end Sys2Proof.Machine
end

