-- ==== Sys2Proof/Laws/Safety.lean ====
section
/-! SUPPORT. What a step can do to the phase of a dispatch, to the window of P-QUIET and to the send in progress; and
that the premise P-PAYLOAD of a run is kept by a frame whose payload keeps it. -/

namespace Sys2Proof.Machine

/-- The phase changes only by a poll that returns 1, the pop that reports empty, a clear, and a reset. -/
theorem DispatchPhase.after_cases (ph : DispatchPhase) (e : Entry) :
    ph.after e = ph ∨
    (e.op = .rdyPoll ∧ e.before.ready = true ∧ ph = .waiting ∧ ph.after e = .draining) ∨
    (e.op = .rbPop ∧ e.before.empty = true ∧ ph = .draining ∧ ph.after e = .drained) ∨
    ((e.op = .rdyClr ∨ e.op = .sysReset) ∧ ph.after e = .waiting) := by
  obtain ⟨s, i⟩ := e
  cases i <;> cases ph <;> cases hr : s.ready <;> cases he : s.empty <;> simp [DispatchPhase.after, hr, he]

/-- An open window closes only by the clear that ends the dispatch, and by a reset. -/
theorem handOverAfter_closes {ph : DispatchPhase} {e : Entry} (h : handOverAfter (some ph) e = none) :
    (e.op = .rdyClr ∧ ph = .drained) ∨ e.op = .sysReset := by
  obtain ⟨s, i⟩ := e
  unfold handOverAfter at h
  split at h
  · cases h
  · cases i <;> cases ph <;> simp_all

/-- A window opens only by the RX.END that sets `ready`. -/
theorem handOverAfter_opens {ph : DispatchPhase} {e : Entry} (h : handOverAfter none e = some ph) :
    e.handsOver = true ∧ ph = .waiting := by
  obtain ⟨s, i⟩ := e
  unfold handOverAfter at h
  split at h
  · rename_i hh
    cases h
    exact ⟨hh, rfl⟩
  · cases i <;> simp at h

/-- The rest of a frame, from a payload byte on. -/
theorem payloadsFrom_rest (p : List Byte) (n : Nat) (hp : p.all isData = true)
    (hn : n + p.length ≤ Config.capacity) : payloadsFrom (some n) (p ++ [Config.endByte]) = true := by
  induction p generalizing n with
  | nil => simp [payloadsFrom]
  | cons b p ih =>
    simp only [List.all_cons, Bool.and_eq_true] at hp
    have hb : b ≠ Config.startByte ∧ b ≠ Config.endByte := by simpa [isData] using hp.1
    simp only [List.length_cons] at hn
    have hlt : n < Config.capacity := by omega
    simp [payloadsFrom, hb, hlt, ih (n + 1) hp.2 (by omega)]

/-- A frame on the line keeps P-PAYLOAD where its payload does. -/
theorem payloadsFrom_frame {p : List Byte} (h : pPayload p = true) :
    payloadsFrom none (frameBytes p) = true := by
  simp only [pPayload, Bool.and_eq_true, decide_eq_true_eq] at h
  have := payloadsFrom_rest p 0 h.2 (by omega)
  simpa [frameBytes, payloadsFrom] using this

/-- The payload of a send that drove a whole frame, whatever bytes the payload has. -/
@[simp] theorem sentPayload_frameBytes (p : List Byte) : sentPayload (frameBytes p) = p := by
  simp [sentPayload, frameBytes]

/-- Everything a step can do to the send in progress: end it, add the byte taken, or leave it. -/
theorem sendsFrom_cases (bytes : List Byte) (e : Entry) (run : List Entry) :
    ((e.op = .dirTx ∨ e.op = .dirRx ∨ e.op = .sysReset) ∧
      sendsFrom bytes (e :: run) = bytes :: sendsFrom [] run) ∨
    (e.takesByte = true ∧ sendsFrom bytes (e :: run) = sendsFrom (bytes ++ [operand e.op]) run) ∨
    (e.takesByte = false ∧ sendsFrom bytes (e :: run) = sendsFrom bytes run) := by
  by_cases h : e.op = .dirTx ∨ e.op = .dirRx ∨ e.op = .sysReset
  · exact .inl ⟨h, by simp [sendsFrom, h]⟩
  · cases ht : e.takesByte <;> simp [sendsFrom, h, ht]

/-- Under P-TXSEQ a byte is issued only in a send, and as a continuation of a frame. -/
theorem pTxSeqFrom_txByte {sending : Option (List Byte)} {b : Byte} {s : State} {run : List Entry}
    (h : pTxSeqFrom sending ({ before := s, op := .txByte b } :: run) = true) :
    ∃ bytes, sending = some bytes ∧ (bytes ++ [b]).head? = some Config.startByte := by
  cases sending with
  | none => simp [pTxSeqFrom] at h
  | some bytes =>
    simp only [pTxSeqFrom, Bool.and_eq_true, beq_iff_eq] at h
    exact ⟨bytes, rfl, h.1⟩

/-- The two ends R112 calls not good are none of the model's good ends. -/
theorem State.goodEnd_excludes (s : State) (h : s.goodEnd = true) :
    s.heldAtTx = false ∧ s.faultMarked = false := by
  simp only [State.goodEnd, State.quiescent, Bool.and_eq_true, Bool.not_eq_true'] at h
  exact ⟨by simp [State.heldAtTx, h.1.2], h.2⟩

end Sys2Proof.Machine
end

