-- ==== Sys2Proof/Laws/Schedule.lean ====
section
/-! SUPPORT. Once, everything a turn, an instant and a step can do: the inversion lemmas later proofs cite. -/

namespace Sys2Proof.Machine

/-- Two states that differ at most in the operations still to be presented. -/
def SameBut (s t : State) : Prop := ∃ inp, t = { s with input := inp }

theorem SameBut.refl (s : State) : SameBut s s := ⟨s.input, rfl⟩

theorem SameBut.trans {s t u : State} (h : SameBut s t) (h' : SameBut t u) : SameBut s u := by
  obtain ⟨i, rfl⟩ := h
  obtain ⟨j, rfl⟩ := h'
  exact ⟨j, rfl⟩

theorem sameBut_setQueue (s : State) (a : Agent) (q : List Cmd) : SameBut s (s.setQueue a q) := ⟨_, rfl⟩

theorem sameBut_setSchedule (s : State) (l : List (List Agent)) : SameBut s (s.setSchedule l) := ⟨_, rfl⟩

theorem sameBut_override (s : State) (a : Agent) : SameBut s (s.override a) := by
  unfold State.override
  split
  · exact SameBut.refl s
  · exact sameBut_setQueue ..

theorem sameBut_foldl_override (now : List Agent) (s : State) :
    SameBut s (now.foldl State.override s) := by
  induction now generalizing s with
  | nil => exact SameBut.refl s
  | cons a as ih => exact (sameBut_override s a).trans (ih _)

/-- Everything a turn can do: nothing, a refusal, or the execution of an operation of the agent's own, well
decoded, in a state that differs only in the input. -/
theorem State.turn_cases (s : State) (a : Agent) :
    s.turn a = .next s ∨ (∃ r, s.turn a = .refused r) ∨
    ∃ w q i, s.input.queue a = w :: q ∧ decode w = .ok i ∧ issuer i = a ∧
      s.turn a = exec i (s.setQueue a q) := by
  unfold State.turn
  split
  · exact .inl rfl
  · rename_i w q hq
    split
    · exact .inr (.inl ⟨_, rfl⟩)
    · rename_i i hi
      split
      · exact .inr (.inr ⟨w, q, i, hq, hi, ‹_›, rfl⟩)
      · exact .inr (.inl ⟨_, rfl⟩)

/-- Everything an instant can do. -/
theorem State.instant_cases (s : State) (now : List Agent) (rest : List (List Agent)) :
    (∃ u, SameBut s u ∧ s.instant now rest = .next u) ∨ (∃ r, s.instant now rest = .refused r) ∨
    ∃ w i u, SameBut s u ∧ decode w = .ok i ∧ s.instant now rest = exec i u := by
  have hturn : ∀ (t : State) (a : Agent), SameBut s t → s.instant now rest = t.turn a →
      (∃ u, SameBut s u ∧ s.instant now rest = .next u) ∨ (∃ r, s.instant now rest = .refused r) ∨
      ∃ w i u, SameBut s u ∧ decode w = .ok i ∧ s.instant now rest = exec i u := by
    intro t a ht h
    obtain h' | ⟨r, h'⟩ | ⟨w, q, i, -, hd, -, h'⟩ := t.turn_cases a
    · exact .inl ⟨t, ht, h.trans h'⟩
    · exact .inr (.inl ⟨r, h.trans h'⟩)
    · exact .inr (.inr ⟨w, i, t.setQueue a q, ht.trans (sameBut_setQueue ..), hd, h.trans h'⟩)
  cases hr : s.resetPresented now with
  | true =>
    exact hturn _ .rst ((sameBut_setSchedule s rest).trans (sameBut_foldl_override now _))
      (by simp [State.instant, hr])
  | false =>
    cases now with
    | nil => exact .inl ⟨_, sameBut_setSchedule s rest, by simp [State.instant, hr]⟩
    | cons a as => exact hturn _ a (sameBut_setSchedule s (pushInstant as rest)) (by simp [State.instant, hr])

/-- Everything a step can do: it leaves the state but for the input, it refuses, or it executes a decoded
operation in a state that differs only in the input. -/
theorem step_cases (s : State) :
    (∃ u, SameBut s u ∧ step s = .next u) ∨ (∃ r, step s = .refused r) ∨
    ∃ w i u, SameBut s u ∧ decode w = .ok i ∧ step s = exec i u := by
  cases h : s.input.schedule with
  | nil => exact .inl ⟨s, SameBut.refl s, by simp [step, h]⟩
  | cons now rest =>
    have e : step s = s.instant now rest := by simp [step, h]
    rw [e]
    exact s.instant_cases now rest

end Sys2Proof.Machine
end

