-- ==== Sys2Proof/Machine/Ports.lean ====
section
/-! DEFINITION. The port list of a clocked realisation, which is informative (R49, D17; log 23). -/

namespace Sys2Proof.Machine

/-- The input signals at one instant. The signal `ready` is an output that CONS samples, so RDY.POLL has no
request of its own (R49). -/
structure PortsIn where
  /-- SYS.RESET. -/
  rst : Bool
  /-- FR.RXBYTE with operand `rxData`. -/
  rxValid : Bool
  /-- The received byte. -/
  rxData : Byte
  /-- RDY.CLR. -/
  readyClr : Bool
  /-- RB.POP. -/
  popReq : Bool
  /-- DIR.TX. -/
  dirTxReq : Bool
  /-- DIR.RX. -/
  dirRxReq : Bool
  /-- Not "transmit-complete", from the serial transmitter. -/
  txBusy : Bool
  /-- RB.PUSH with operand `pushData`, exposed only in a component-level test. -/
  pushReq : Bool
  /-- The byte to push. -/
  pushData : Byte
  /-- RB.RESET, exposed only in a component-level test. -/
  rbReset : Bool
  deriving DecidableEq, Repr

/-- The output signals after an operation. -/
structure PortsOut where
  /-- The `ready` flag. -/
  ready : Bool
  /-- Result `ok` of RB.POP; 0 after any other operation (DESIGN CHOICE, log 23). -/
  popOk : Bool
  /-- Result `byte` of RB.POP; no value when `popOk` is false. -/
  popData : Option Byte
  /-- The transmit-enable line. -/
  txEn : Bool
  /-- The receive-enable line. -/
  rxEn : Bool
  /-- Result `ok` of RB.PUSH; 0 after any other operation (DESIGN CHOICE, log 23). -/
  pushOk : Bool
  deriving DecidableEq, Repr

/-- An operation, if its request signal is 1. -/
def requested (signal : Bool) (i : Instr) : List Instr := if signal then [i] else []

/-- The operations requested at one instant in a state. A transmitter that is no longer busy has done
TX.DONE. What a `tx_busy` signal at 1 means while the state has the transmitter free is left open, R49 having no
request for TX.BYTE: the model reads no operation from it, and a DIR.RX requested then goes by the state's bit (R75)
(DESIGN CHOICE, log 23). R49 has the request signals of one agent mutually exclusive and gives no meaning to two of them at 1: such an
input is not shut out here, and the operations of one agent are then listed in the order written below, RDY.CLR before
RB.POP before DIR.TX before DIR.RX, and RB.PUSH before RB.RESET (DESIGN CHOICE, log 23). -/
def PortsIn.requests (p : PortsIn) (s : State) : List Instr :=
  requested p.rst .sysReset ++ requested p.rxValid (rxByte p.rxData) ++
  requested p.readyClr .rdyClr ++ requested p.popReq .rbPop ++
  requested p.dirTxReq .dirTx ++ requested p.dirRxReq .dirRx ++
  requested (s.txBusy && !p.txBusy) .txDone ++
  requested p.pushReq (.rbPush p.pushData) ++ requested p.rbReset .rbReset

/-- The request signals of each agent are mutually exclusive, as R49 requires of an input. -/
def PortsIn.exclusive (p : PortsIn) (s : State) : Bool := decide ((p.requests s).map issuer).Nodup

/-- The output signals in a state. The spec is silent on `pop_ok` and `push_ok` when the operation executed last was
not RB.POP, or not RB.PUSH: the model drives them to 0 then (DESIGN CHOICE, log 23). -/
def State.portsOut (s : State) : PortsOut :=
  { ready := s.ready
    popOk := match s.result with | .pop (some _) => true | _ => false
    popData := match s.result with | .pop r => r | _ => none
    txEn := s.txEn
    rxEn := s.rxEn
    pushOk := match s.result with | .push ok => ok | _ => false }

end Sys2Proof.Machine
end

