-- ==== Sys2Proof/Machine/TraceText.lean ====
section
/-! DEFINITION. The textual form of one line of a trace (R50, D14). -/

namespace Sys2Proof.Machine

/-- One hexadecimal digit, upper case. -/
def hexDigit (d : Nat) : Char :=
  if d < 10 then Char.ofNat (48 + d) else Char.ofNat (55 + d)

/-- A byte as `0xNN`. -/
def hexByte (b : Byte) : String :=
  "0x" ++ String.ofList [hexDigit (b.toNat / 16), hexDigit (b.toNat % 16)]

/-- The line that writes an operation (R50). -/
def traceLine : Instr → String
  | .rbPush b => "push " ++ hexByte b
  | .rbPop => "pop"
  | .rbReset => "rbreset"
  | .rxStart => "rx " ++ hexByte Config.startByte
  | .rxEnd => "rx " ++ hexByte Config.endByte
  | .rxData b => "rx " ++ hexByte b
  | .rdyPoll => "poll"
  | .rdyClr => "clr"
  | .dirTx => "dir.tx"
  | .dirRx => "dir.rx"
  | .txByte b => "tx " ++ hexByte b
  | .txDone => "tx.done"
  | .sysReset => "reset"

end Sys2Proof.Machine
end

