-- ==== Sys2Proof/Tests/Slice0.lean ====
section
/-! SUPPORT. Small tests, each on one step or one word, with the results the spec's own vectors give
(95_test_vectors.md, cited as V<n>), and for every statement with hypotheses a named witness that meets them. -/

namespace Sys2Proof.Tests

open Sys2Proof.Machine

/-! ## Helpers -/

/-- A state by its scalars, the cells listed with a byte each. -/
def at_ (store : Memory) (head tail : Cursor) (count : Count) (started : RxState) (dir : Direction)
    (busy : Bool) : State :=
  { State.reset with store := store, head := head, tail := tail, count := count, started := started, dir := dir,
                     txBusy := busy }

/-- A buffer whose cells hold their own index (W1). -/
def fullStore : Memory := (List.range 128).map fun i => (i, BitVec.ofNat 8 i)

/-- The full buffer of V4. -/
def fullState : State := at_ fullStore 0 0 128 .receiving .receive false

/-- Two bytes in the middle (V5). -/
def twoBytes : State := at_ [(3, 0x58#8), (4, 0x3D#8)] 5 3 2 .receiving .receive false

/-- One byte, the newest in the last cell (V6). -/
def lastCell : State := at_ [(127, 0x7F#8)] 0 127 1 .idle .receive false

/-- An empty buffer inside a frame, in Transmit and delivered. -/
def echoing : State := { at_ [] 0 0 0 .receiving .transmit true with rxWhileTx := .delivered }

/-- In Transmit, with the transmitter free or busy. -/
def transmitting (busy : Bool) : State := at_ [] 0 0 0 .idle .transmit busy

/-- The state with one word waiting for one agent at the present instant. -/
def waitingAt (s : State) (now : List Agent) (a : Agent) (w : Cmd) : State :=
  (s.setQueue a [w]).setSchedule [now]

/-- What an operation leaves. -/
def after (i : Instr) (s : State) : State := (leftBy (exec i s)).getD s

/-! ## Well-formed terms -/

theorem test_wf_refuses_start_as_data : Instr.wf (.rxData 0x5B#8) = false := by decide
theorem test_wf_refuses_end_as_data : Instr.wf (.rxData 0x5D#8) = false := by decide
theorem test_wf_accepts_neighbours :
    Instr.wf (.rxData 0x5A#8) = true ∧ Instr.wf (.rxData 0x5C#8) = true ∧ Instr.wf (.rxData 0x5E#8) = true ∧
    Instr.wf (.rbPush 0x5B#8) = true ∧ Instr.wf (.txByte 0x5D#8) = true := by decide
/-- An ill-formed term has no spelling of its own: its word is another operation's. -/
theorem test_ill_formed_is_never_decoded : decode (encode (.rxData 0x5B#8)) = .ok .rxStart := by decide

/-! ## Words written out from 30_encoding.md: the code in bits 11 to 8, the data in bits 7 to 0 -/

theorem test_decode_rbPush : decode 0b0001_0100_0001#12 = .ok (.rbPush 0x41#8) := by decide
theorem test_decode_rbPop : decode 0b0010_1111_1111#12 = .ok .rbPop := by decide
theorem test_decode_rbReset : decode 0b0011_0000_0000#12 = .ok .rbReset := by decide
theorem test_decode_rxStart : decode 0b0100_0101_1011#12 = .ok .rxStart := by decide
theorem test_decode_rxEnd : decode 0b0100_0101_1101#12 = .ok .rxEnd := by decide
theorem test_decode_rxData : decode 0b0100_1101_1011#12 = .ok (.rxData 0xDB#8) := by decide
theorem test_decode_rdyPoll : decode 0b0101_0000_0000#12 = .ok .rdyPoll := by decide
theorem test_decode_rdyClr : decode 0b0110_0000_0000#12 = .ok .rdyClr := by decide
theorem test_decode_dirTx : decode 0b0111_0000_0000#12 = .ok .dirTx := by decide
theorem test_decode_dirRx : decode 0b1000_0000_0000#12 = .ok .dirRx := by decide
theorem test_decode_txByte : decode 0b1001_0101_1011#12 = .ok (.txByte 0x5B#8) := by decide
theorem test_decode_txDone : decode 0b1010_0000_0000#12 = .ok .txDone := by decide
theorem test_decode_sysReset : decode 0b1111_1010_1010#12 = .ok .sysReset := by decide
/-- V68. -/
theorem test_decode_reserved :
    decode 0x000#12 = .error (.reservedOp 0x0#4) ∧ decode 0xB00#12 = .error (.reservedOp 0xB#4) ∧
    decode 0xC41#12 = .error (.reservedOp 0xC#4) ∧ decode 0xD00#12 = .error (.reservedOp 0xD#4) := by
  refine ⟨?_, ?_, ?_, ?_⟩ <;> decide
/-- The encoder's words are those of R50. -/
theorem test_encode_words :
    encode (.rbPush 0x41#8) = 0x141#12 ∧ encode .rxEnd = 0x45D#12 ∧ encode (.rxData 0x00#8) = 0x400#12 ∧
    encode (.txByte 0x5B#8) = 0x95B#12 ∧ encode .txDone = 0xA00#12 ∧ encode .sysReset = 0xF00#12 := by decide
theorem test_table_word :
    decodeTableWord 12 0x45B = some .rxStart ∧ decodeTableWord 16 0xF00 = some .sysReset ∧
    decodeTableWord 12 0x0AA = none ∧ decodeTableWord 16 0x1141 = none := by decide

/-! ## One step each -/

/-- V2: `head` wraps from 127 to 0. -/
theorem test_push_wraps :
    (nextOf (exec (.rbPush 0x41#8) (at_ [] 127 3 124 .idle .receive false))).map
      (fun t => ((t.head, t.tail, t.count), t.store, t.result)) =
    some ((0#7, 3#7, 125#8), [(127, 0x41#8)], .push true) := by decide
/-- V4: a full buffer is left as it is. -/
theorem test_push_full :
    (nextOf (exec (.rbPush 0xEE#8) (at_ [(0, 0x00#8)] 0 0 128 .idle .receive false))).map
      (fun t => ((t.head, t.tail, t.count), t.store, t.result)) =
    some ((0#7, 0#7, 128#8), [(0, 0x00#8)], .push false) := by decide
/-- V6: `tail` wraps from 127 to 0. -/
theorem test_pop_wraps :
    (nextOf (exec .rbPop lastCell)).map (fun t => (t.head, t.tail, t.count, t.result)) =
    some (0#7, 0#7, 0#8, .pop (some 0x7F#8)) := by decide
/-- V7: no byte from an empty buffer. -/
theorem test_pop_empty :
    (nextOf (exec .rbPop State.reset)).map (fun t => (t.tail, t.count, t.result)) =
    some (0#7, 0#8, .pop none) := by decide
/-- V8: the cells keep their bytes. -/
theorem test_rbreset :
    (nextOf (exec .rbReset twoBytes)).map (fun t => (t.head, t.tail, t.count, t.store)) =
    some (0#7, 0#7, 0#8, [(3, 0x58#8), (4, 0x3D#8)]) := by decide
/-- V16. -/
theorem test_rxStart_restarts :
    (nextOf (exec .rxStart twoBytes)).map (fun t => (t.head, t.tail, t.count, t.started, t.ready)) =
    some (0#7, 0#7, 0#8, .receiving, false) := by decide
/-- V37's end: the frame is announced. -/
theorem test_rxEnd_completes :
    (nextOf (exec .rxEnd twoBytes)).map (fun t => (t.count, t.started, t.ready)) =
    some (2#8, .idle, true) := by decide
/-- V13: a stray end delimiter is ignored. -/
theorem test_rxEnd_stray :
    (nextOf (exec .rxEnd State.reset)).map (fun t => (t.started, t.ready)) = some (.idle, false) := by decide
/-- V18. -/
theorem test_rxData_captured :
    (nextOf (exec (.rxData 0x41#8) (at_ [] 0 0 0 .receiving .receive false))).map
      (fun t => (t.head, t.count, t.store)) = some (1#7, 1#8, [(0, 0x41#8)]) := by decide
/-- V20: the 129th byte is dropped. -/
theorem test_rxData_dropped :
    (nextOf (exec (.rxData 0x42#8) (at_ [(0, 0x41#8)] 0 0 128 .receiving .receive false))).map
      (fun t => (t.head, t.count, t.store, t.result)) = some (0#7, 128#8, [(0, 0x41#8)], .none) := by decide
/-- V27. -/
theorem test_poll :
    (nextOf (exec .rdyPoll { twoBytes with ready := true })).map (fun t => (t.result, t.ready)) =
    some (.poll true, true) := by decide
/-- V29: clearing does not reset RB. -/
theorem test_clr :
    (nextOf (exec .rdyClr { twoBytes with ready := true })).map (fun t => (t.ready, t.count)) =
    some (false, 2#8) := by decide
/-- V38. -/
theorem test_dirTx :
    (nextOf (exec .dirTx State.reset)).map (fun t => (t.dir, t.txEn, t.rxEn)) =
    some (.transmit, true, false) := by decide
/-- V40. -/
theorem test_dirRx :
    (nextOf (exec .dirRx (transmitting false))).map (fun t => (t.dir, t.txEn, t.rxEn)) =
    some (.receive, false, true) := by decide
/-- V45: the lines switch, and the run is marked. -/
theorem test_dirRx_truncates :
    nextOf (exec .dirRx (transmitting true)) = none ∧
    (leftBy (exec .dirRx (transmitting true))).map (fun t => (t.dir, t.txBusy, t.events)) =
    some (.receive, true, [.txTruncated]) := by decide
/-- V43. -/
theorem test_txByte :
    (nextOf (exec (.txByte 0x41#8) (transmitting false))).map (fun t => (t.wireOut, t.txBusy)) =
    some ([0x41#8], true) := by decide
/-- V42: no state of the block changes. -/
theorem test_txByte_in_receive :
    leftBy (exec (.txByte 0x41#8) State.reset) = some { State.reset with events := [.txWhileReceive] } := by decide
/-- V46. -/
theorem test_txDone :
    (nextOf (exec .txDone (transmitting true))).map (fun t => (t.dir, t.txBusy)) =
    some (.transmit, false) := by decide
/-- V52: `store` and `wire_out` are not touched. -/
theorem test_sysReset :
    nextOf (exec .sysReset { at_ [(2, 0x11#8)] 5 2 3 .receiving .transmit true with
      ready := true, wireOut := [0x5B#8, 0x41#8] }) =
    some { at_ [(2, 0x11#8)] 0 0 0 .idle .receive false with wireOut := [0x5B#8, 0x41#8] } := by decide
/-- R50's notation. -/
theorem test_trace_line : traceLine (.rxData 0x4F#8) = "rx 0x4F" := by decide
/-- R49: a falling `tx_busy` is the transmitter's completion. -/
theorem test_ports_tx_done :
    PortsIn.requests
      { rst := false, rxValid := false, rxData := 0, readyClr := false, popReq := false, dirTxReq := false,
        dirRxReq := false, txBusy := false, pushReq := false, pushData := 0, rbReset := false }
      (transmitting true) = [.txDone] := by decide
/-- R49: two requests of CONS at once are no input of the port list. -/
theorem test_ports_exclusive :
    let p := { rst := false, rxValid := true, rxData := 0x41#8, readyClr := false, popReq := true,
               dirTxReq := false, dirRxReq := false, txBusy := false, pushReq := false, pushData := 0,
               rbReset := false : PortsIn }
    p.exclusive State.reset = true ∧
    ({ p with readyClr := true } : PortsIn).exclusive State.reset = false := by decide

/-! ## The premises of R99 on a run (R70, R81; V29, V31, V32) -/

/-- A frame received, dispatched and acknowledged: all premises hold. -/
theorem test_premises_of_a_good_run :
    let run := entriesOf (frame [0x48#8] ++ [.rdyPoll, .rbPop, .rbPop, .rdyClr] ++ send [0x41#8]) State.reset
    pSpsc run = true ∧ pReady run = true ∧ pQuiet run = true ∧ pPayloads run = true ∧ pTxSeq run = true := by
  decide
/-- A pop without a poll, a clear without a poll, a clear before the drain has ended. -/
theorem test_pReady_refuses :
    pReady (entriesOf (frame [0x48#8] ++ [.rbPop]) State.reset) = false ∧
    pReady (entriesOf [.rdyClr] State.reset) = false ∧
    pReady (entriesOf (frame [0x48#8] ++ [.rdyPoll, .rbPop, .rdyClr]) State.reset) = false := by decide
/-- A clear that ends no dispatch leaves the window open; the one that ends the dispatch closes it. -/
theorem test_pQuiet_window :
    pQuiet (entriesOf (frame [0x48#8] ++ [.rdyClr, .rxStart]) State.reset) = false ∧
    pQuiet (entriesOf (frame [0x48#8] ++ [.rdyPoll, .rbPop, .rbPop, .rxStart]) State.reset) = false ∧
    pQuiet (entriesOf (frame [0x48#8] ++ [.rdyPoll, .rbPop, .rbPop, .rdyClr, .rxStart]) State.reset) = true := by
  decide
/-- A delimiter inside a received payload, and inside a sent one, also where the wire shows two frames (R104). -/
theorem test_pPayloads_refuses :
    pPayloads (entriesOf (frame [0x41#8, 0x5D#8]) State.reset) = false ∧
    pPayloads (entriesOf (frame [0x41#8, 0x5B#8]) State.reset) = false ∧
    pPayloads (entriesOf (send [0x5B#8]) State.reset) = false ∧
    pPayloads (entriesOf (send [0x5D#8, 0x5B#8]) State.reset) = false := by decide
/-- A send cut off by a reset, then a whole one: each payload by itself keeps the premise. -/
theorem test_pPayloads_after_a_cut_send :
    let cut := [Instr.dirTx, .txByte 0x5B#8, .txDone, .txByte 0x41#8, .sysReset]
    pPayloads (entriesOf (cut ++ send [0x42#8]) State.reset) = true ∧
    pTxSeq (entriesOf (cut ++ send [0x42#8]) State.reset) = true ∧
    sendsFrom [] (entriesOf (cut ++ send [0x42#8]) State.reset) =
      [[], [0x5B#8, 0x41#8], [], [0x5B#8, 0x42#8, 0x5D#8], []] := by decide
/-- A send that does not begin with START, cut off by a reset, by the end of the run, or held at its first byte. -/
theorem test_pTxSeq_refuses_a_cut_send :
    pTxSeq (entriesOf [.dirTx, .txByte 0x41#8, .sysReset] State.reset) = false ∧
    pTxSeq (entriesOf [.dirTx, .txByte 0x41#8] State.reset) = false ∧
    pTxSeq (entriesOf [.dirTx, .txByte 0x41#8, .sysReset] { State.reset with txBusy := true }) = false ∧
    pTxSeq (entriesOf [.dirTx, .txByte 0x5B#8, .sysReset] State.reset) = true := by decide
set_option maxRecDepth 10000 in
/-- The greatest payload, and one byte more. -/
theorem test_payload_length :
    payloadsFrom none (frameBytes (List.replicate 128 0x41#8)) = true ∧
    payloadsFrom none (frameBytes (List.replicate 129 0x41#8)) = false := by decide

/-! ## Witnesses: for each statement with hypotheses, states and operands that meet them -/

/-- At the edges of the classes. -/
theorem test_witness_DecodeEncodeRoundTrip :
    Instr.wf (.rxData 0x00#8) = true ∧ Instr.wf (.rxData 0xFF#8) = true ∧ Instr.wf .rxEnd = true := by decide

theorem test_witness_DecodedOperationSpellsItsWord :
    decode 0x1FF#12 = .ok (.rbPush 0xFF#8) ∧ Cmd.op 0x1FF#12 = 0x1#4 ∧ Cmd.op 0x45B#12 = 0x4#4 ∧
    Cmd.op 0x900#12 = 0x9#4 ∧ decode 0x2FF#12 = .ok .rbPop ∧ Cmd.op 0x2FF#12 = Cmd.op 0x200#12 ∧
    Cmd.op 0x2FF#12 ≠ 0x1#4 ∧ Cmd.op 0x2FF#12 ≠ 0x4#4 ∧ Cmd.op 0x2FF#12 ≠ 0x9#4 := by
  refine ⟨?_, ?_, ?_, ?_, ?_, ?_⟩ <;> decide

/-- One word for each row's match. -/
theorem test_witness_TableRowsDecode :
    0x1FF#12 &&& 0xF00#12 = 0x100#12 ∧ 0x200#12 &&& 0xF00#12 = 0x200#12 ∧
    0x3FF#12 &&& 0xF00#12 = 0x300#12 ∧ 0x45B#12 &&& 0xFFF#12 = 0x45B#12 ∧
    0x45D#12 &&& 0xFFF#12 = 0x45D#12 ∧
    (0x45C#12 &&& 0xF00#12 = 0x400#12 ∧ 0x45C#12 ≠ 0x45B#12 ∧ 0x45C#12 ≠ 0x45D#12) ∧
    0x5FF#12 &&& 0xF00#12 = 0x500#12 ∧ 0x600#12 &&& 0xF00#12 = 0x600#12 ∧
    0x7FF#12 &&& 0xF00#12 = 0x700#12 ∧ 0x800#12 &&& 0xF00#12 = 0x800#12 ∧
    0x9FF#12 &&& 0xF00#12 = 0x900#12 ∧ 0xA00#12 &&& 0xF00#12 = 0xA00#12 ∧
    0xFFF#12 &&& 0xF00#12 = 0xF00#12 := by decide

theorem test_witness_ReservedCodesAreRefused :
    decode 0x0FF#12 = .error (.reservedOp 0x0#4) ∧ Cmd.op 0xBFF#12 = 0xB#4 ∧ Cmd.op 0xE00#12 = 0xE#4 := by
  refine ⟨?_, ?_⟩ <;> decide

theorem test_witness_StepRunsDecodedOperation :
    let s := waitingAt twoBytes [.cons, .prod] .cons 0x2FF#12
    s.input.schedule = [[.cons, .prod]] ∧ s.resetPresented [.cons, .prod] = false ∧
    s.input.queue .cons = [0x2FF#12] ∧ decode 0x2FF#12 = .ok .rbPop ∧ issuer .rbPop = .cons := by
  refine ⟨?_, ?_, ?_, ?_, ?_⟩ <;> decide

/-- The largest word, and the operation it places, which runs. -/
theorem test_witness_PlacedWordRunsNext :
    12 ≤ 12 ∧ 0xFFF < 4096 ∧ decodeTableWord 12 0xFFF = some .sysReset ∧
    nextOf (step (twoBytes.withFetchWord 12 0xFFF)) = nextOf (exec .sysReset twoBytes) := by decide

theorem test_witness_NothingPresentedChangesNothing :
    State.reset.input.schedule = [] ∧ (State.reset.setSchedule [[], [.cons]]).input.schedule = [[], [.cons]] ∧
    (let s := State.reset.setSchedule [[.rst, .cons]]
     s.input.schedule = [[.rst, .cons]] ∧ s.resetPresented [.rst, .cons] = false ∧ s.input.queue .rst = []) := by
  decide

/-- A reserved word, and an operation in the queue of an agent without that port. -/
theorem test_witness_StepRefusesReservedAndForeign :
    (let s := waitingAt State.reset [.cons] .cons 0x0AA#12
     s.input.schedule = [[.cons]] ∧ s.resetPresented [.cons] = false ∧ s.input.queue .cons = [0x0AA#12] ∧
     decode 0x0AA#12 = .error (.reservedOp 0x0#4)) ∧
    (let s := waitingAt State.reset [.cons] .cons 0x141#12
     s.input.schedule = [[.cons]] ∧ s.resetPresented [.cons] = false ∧ s.input.queue .cons = [0x141#12] ∧
     decode 0x141#12 = .ok (.rbPush 0x41#8) ∧ issuer (.rbPush 0x41#8) ≠ .cons) := by
  refine ⟨⟨?_, ?_, ?_, ?_⟩, ?_, ?_, ?_, ?_, ?_⟩ <;> decide

theorem test_witness_OwnedInputIsNeverRefused :
    (waitingAt State.reset [.cons] .cons 0x200#12).inputOwned := by
  intro a w h
  cases a with
  | cons =>
    have : w = 0x200#12 := by simpa [waitingAt, Input.queue, Input.setQueue] using h
    exact ⟨.rbPop, this ▸ rfl, rfl⟩
  | prod => exact absurd h (by decide +revert)
  | shift => exact absurd h (by decide +revert)
  | rst => exact absurd h (by decide +revert)
  | test => exact absurd h (by decide +revert)

theorem test_witness_ResetWinsTheInstant :
    let s := (waitingAt twoBytes [.cons, .rst] .rst 0xFAA#12).setQueue .cons [0x200#12, 0x200#12]
    s.input.schedule = [[.cons, .rst]] ∧ Agent.rst ∈ [Agent.cons, Agent.rst] ∧ s.input.rst = [0xFAA#12] ∧
    decode 0xFAA#12 = .ok .sysReset := by
  refine ⟨?_, ?_, ?_, ?_⟩ <;> decide

/-- The invariant, at an empty, a wrapped and a full buffer. -/
theorem test_witness_Inv_small : State.reset.Inv ∧ twoBytes.Inv ∧ lastCell.Inv := by decide

set_option maxRecDepth 100000 in
theorem test_witness_Inv_full : fullState.Inv := by decide

/-- A step to a next state and a step to a fault, both from the invariant. -/
theorem test_witness_StepKeepsInvariant :
    (waitingAt twoBytes [.cons] .cons 0x200#12).Inv ∧
    (nextOf (step (waitingAt twoBytes [.cons] .cons 0x200#12))).isSome = true ∧
    (waitingAt twoBytes [.cons] .cons 0x941#12).Inv ∧
    nextOf (step (waitingAt twoBytes [.cons] .cons 0x941#12)) = none ∧
    (leftBy (step (waitingAt twoBytes [.cons] .cons 0x941#12))).isSome = true := by decide

theorem test_witness_CountAloneTellsFullFromEmpty :
    fullState.count.toNat ≤ 128 ∧
    leftBy (exec (.rbPush 0x00#8) fullState) = some (after (.rbPush 0x00#8) fullState) := by decide

/-- Both cursors at 127, with room and with a byte to pop; a capture; and moves that are no advance. -/
theorem test_witness_CursorAdvanceWraps :
    (let s := at_ [] 127 127 0 .receiving .receive false
     s.head.toNat = 127 ∧ s.count.toNat ≠ 128 ∧ s.dir = .receive ∧ s.started = .receiving ∧
     leftBy (exec (.rbPush 0x00#8) s) = some (after (.rbPush 0x00#8) s) ∧
     (after (.rbPush 0x00#8) s).head ≠ s.head ∧ (after (.rxData 0x00#8) s).head ≠ s.head) ∧
    (lastCell.tail.toNat = 127 ∧ lastCell.count.toNat ≠ 0 ∧ (after .rbPop lastCell).tail ≠ lastCell.tail) ∧
    (after .rxStart twoBytes).head ≠ twoBytes.head ∧ (after .rxStart twoBytes).tail ≠ twoBytes.tail ∧
    echoing.rxWhileTx = .delivered ∧ echoing.started = .receiving ∧ echoing.count.toNat ≠ 128 := by decide

theorem test_witness_PushStoresAtHead :
    State.reset.count.toNat < 128 ∧ (at_ [] 127 0 127 .idle .receive false).count.toNat < 128 := by decide

theorem test_witness_PopReturnsTheByteAtTail :
    0 < lastCell.count.toNat ∧ 0 < fullState.count.toNat := by decide

theorem test_witness_CapacityInvariant :
    (∀ i ∈ [Instr.rbPush 0x41#8, .rbPop, .rbReset], (∃ b, i = .rbPush b) ∨ i = .rbPop ∨ i = .rbReset) ∧
    fullState.count.toNat ≤ 128 ∧ fullState.count.toNat = 128 ∧ State.reset.count.toNat = 0 :=
  ⟨by simp, by decide, by decide, by decide⟩

theorem test_witness_FullAndEmptyAtEqualCursors :
    (List.replicate 128 0x41#8).length = 128 ∧ (at_ [] 7 7 0 .idle .receive false).count.toNat = 0 ∧
    (at_ [] 7 7 0 .idle .receive false).head = (at_ [] 7 7 0 .idle .receive false).tail :=
  ⟨by simp, by decide, by decide⟩

/-- The clauses' counts: 0, 127 and below, 128. -/
theorem test_witness_RingRefinesQueue :
    State.reset.Inv ∧ State.reset.count.toNat = 0 ∧ twoBytes.Inv ∧ 0 < twoBytes.count.toNat ∧
    twoBytes.count.toNat < 128 ∧ fullState.Inv ∧ fullState.count.toNat = 128 :=
  ⟨test_witness_Inv_small.1, by decide, test_witness_Inv_small.2.1, by decide, by decide, test_witness_Inv_full,
    by decide⟩

/-- A list of the greatest length, and cursors together at the last cell. -/
theorem test_witness_PushesThenPopsKeepOrder :
    (List.replicate 128 0x5B#8).length ≤ 128 ∧ (at_ [] 127 127 0 .idle .receive false).count.toNat = 0 ∧
    (at_ [] 127 127 0 .idle .receive false).head = (at_ [] 127 127 0 .idle .receive false).tail :=
  ⟨by simp, by decide, by decide⟩

/-- A push of a captured byte leaves a state. -/
theorem test_witness_MemWriteChangesOneCell :
    leftBy (exec (.rxData 0x41#8) twoBytes) = some (after (.rxData 0x41#8) twoBytes) ∧
    (after (.rxData 0x41#8) twoBytes).store = Memory.write twoBytes.store 5 0x41#8 := by decide

theorem test_witness_OnlyPopReadsTheStore :
    0 < twoBytes.count.toNat ∧
    Memory.read [(3, 0x58#8)] twoBytes.tail.toNat = Memory.read twoBytes.store twoBytes.tail.toNat ∧
    nextOf (exec .rbPop twoBytes) = some (after .rbPop twoBytes) ∧
    Instr.rxStart ≠ .rbPop ∧ leftBy (exec .rxStart twoBytes) = some (after .rxStart twoBytes) ∧
    storedCell .rxStart twoBytes = none ∧ Instr.rxData 0x41#8 ≠ .rbPop ∧
    leftBy (exec (.rxData 0x41#8) twoBytes) = some (after (.rxData 0x41#8) twoBytes) ∧
    storedCell (.rxData 0x41#8) twoBytes = some 5 := by decide

/-- A store, and a cell outside it; the last cell of the array too. -/
theorem test_witness_StoreFrame :
    leftBy (exec (.rxData 0x41#8) twoBytes) = some (after (.rxData 0x41#8) twoBytes) ∧
    storedCell (.rxData 0x41#8) twoBytes = some 5 ∧ storedCell (.rxData 0x41#8) twoBytes ≠ some 3 ∧
    storedCell (.rbPush 0x41#8) (at_ [] 127 3 124 .idle .receive false) = some 127 ∧
    storedCell (.rbPush 0x41#8) fullState = none := by decide

theorem test_witness_PopNeverReadsUnwrittenCell :
    lastCell.Inv ∧ nextOf (exec .rbPop lastCell) = some (after .rbPop lastCell) ∧
    (after .rbPop lastCell).result = .pop (some 0x7F#8) := by decide

theorem test_witness_ReceivedByteHasOneClass : (0x5C#8 : Byte) ≠ 0x5B#8 ∧ (0x5C#8 : Byte) ≠ 0x5D#8 := by decide

/-- Both ways to be delivered, both states of FR. -/
theorem test_witness_StartDelimiterAlwaysWins :
    (twoBytes.dir = .receive ∨ twoBytes.rxWhileTx = .delivered) ∧
    (echoing.dir = .receive ∨ echoing.rxWhileTx = .delivered) := by decide

theorem test_witness_EndDelimiterCompletesFrame :
    (twoBytes.dir = .receive ∨ twoBytes.rxWhileTx = .delivered) ∧ twoBytes.started = .receiving ∧
    (lastCell.dir = .receive ∨ lastCell.rxWhileTx = .delivered) ∧ lastCell.started = .idle ∧
    (echoing.dir = .receive ∨ echoing.rxWhileTx = .delivered) := by decide

/-- Room for one byte, no room, Idle; the neighbours of the delimiters. -/
theorem test_witness_DataByteIsCapturedOrDropped :
    (0x5C#8 : Byte) ≠ 0x5B#8 ∧ (0x5C#8 : Byte) ≠ 0x5D#8 ∧
    (let s := at_ [] 127 0 127 .receiving .receive false
     s.dir = .receive ∧ s.count.toNat ≤ 128 ∧ s.started = .receiving ∧ s.count.toNat < 128) ∧
    (fullState.dir = .receive ∧ fullState.count.toNat ≤ 128 ∧ fullState.started = .receiving ∧
      fullState.count.toNat = 128) ∧
    (lastCell.dir = .receive ∧ lastCell.count.toNat ≤ 128 ∧ lastCell.started = .idle) ∧
    (echoing.rxWhileTx = .delivered ∧ echoing.count.toNat ≤ 128) := by decide

theorem test_witness_BytesAreLostWhileTransmitting :
    (transmitting true).dir = .transmit ∧ (transmitting true).rxWhileTx = .blocked := by decide

theorem test_witness_RestartIsIdempotent :
    (fullState.dir = .receive ∨ fullState.rxWhileTx = .delivered) ∧ fullState.started = .receiving ∧
    echoing.rxWhileTx = .delivered := by decide

set_option maxRecDepth 10000 in
/-- The empty payload, a payload around the delimiters' values, and one of the greatest length. -/
theorem test_witness_FrameRoundTrip :
    pPayload [] = true ∧ pPayload [0x5C#8, 0xDB#8] = true ∧ pPayload (List.replicate 128 0x41#8) = true ∧
    (twoBytes.dir = .receive ∨ twoBytes.rxWhileTx = .delivered) ∧
    (echoing.dir = .receive ∨ echoing.rxWhileTx = .delivered) := by decide

/-- A consumer that polls, clears and polls between the bytes of a frame. -/
theorem test_witness_ReadyPublishesTheWholeFrame :
    pPayload [0x41#8] = true ∧ (twoBytes.dir = .receive ∨ twoBytes.rxWhileTx = .delivered) ∧
    (∀ i ∈ [Instr.rdyPoll, .rxStart, .rdyClr, .rxData 0x41#8, .txDone],
      (∃ b, i = rxByte b) ∨ i = .rdyPoll ∨ i = .rdyClr ∨ i = .txDone) ∧
    [Instr.rdyPoll, .rxStart, .rdyClr, .rxData 0x41#8, .txDone].filter (fun i => issuer i == .prod) =
      rxs [Config.startByte, 0x41#8] := by
  refine ⟨by decide, by decide, ?_, by decide⟩
  intro i h
  simp only [List.mem_cons, List.not_mem_nil, or_false] at h
  obtain rfl | rfl | rfl | rfl | rfl := h
  · exact .inr (.inl rfl)
  · exact .inl ⟨Config.startByte, rfl⟩
  · exact .inr (.inr (.inl rfl))
  · exact .inl ⟨0x41#8, rfl⟩
  · exact .inr (.inr (.inr rfl))

set_option maxRecDepth 10000 in
/-- One byte too many. -/
theorem test_witness_OverlongFrameIsTruncated :
    128 < (List.replicate 129 0x41#8).length ∧ (List.replicate 129 0x41#8).all isData = true ∧
    (State.reset.dir = .receive ∨ State.reset.rxWhileTx = .delivered) := by decide

/-- V23 and V24. -/
theorem test_witness_DelimiterInsidePayload :
    [0x41#8, 0x42#8].all isData = true ∧ [0x43#8, 0x44#8].all isData = true ∧
    (State.reset.dir = .receive ∨ State.reset.rxWhileTx = .delivered) := by decide

/-- Each label, and an operation that enters none. -/
theorem test_witness_SilentErrorsAreLogged :
    (nextOf (exec .rxStart twoBytes)).map State.events = some [.startBeforeClose] ∧
    (nextOf (exec .rxEnd lastCell)).map State.events = some [.endWithoutStart] ∧
    (nextOf (exec (.rxData 0x41#8) (at_ [] 0 0 128 .receiving .receive false))).map State.events =
      some [.bufferOverflow] ∧
    (nextOf (exec .rdyPoll twoBytes)).map State.events = some [] := by decide

theorem test_witness_ReadyHasOneSetter :
    leftBy (exec .rxEnd twoBytes) = some (after .rxEnd twoBytes) ∧
    (twoBytes.dir = .receive ∨ twoBytes.rxWhileTx = .delivered) ∧ twoBytes.started = .receiving ∧
    echoing.rxWhileTx = .delivered ∧ echoing.started = .receiving := by decide

theorem test_witness_DrainReturnsTheQueue : State.reset.Inv ∧ twoBytes.Inv ∧ lastCell.Inv :=
  test_witness_Inv_small

theorem test_witness_DispatchHandsOverTheMessage :
    ({ twoBytes with ready := true } : State).Inv ∧ twoBytes.Inv ∧ twoBytes.ready = false := by decide

/-- Empty, in between, and full. -/
theorem test_witness_CoincidingPushAndPop :
    (let s := at_ [] 5 5 0 .receiving .receive false
     s.Inv ∧ s.started = .receiving ∧ s.dir = .receive ∧ s.count.toNat = 0) ∧
    (twoBytes.Inv ∧ twoBytes.started = .receiving ∧ twoBytes.dir = .receive ∧ 0 < twoBytes.count.toNat ∧
      twoBytes.count.toNat < 128) ∧
    (fullState.Inv ∧ fullState.started = .receiving ∧ fullState.dir = .receive ∧
      fullState.count.toNat = 128) :=
  ⟨by decide, by decide, test_witness_Inv_full, by decide, by decide, by decide⟩

theorem test_witness_FrameBeforeClearIsUnannounced :
    pPayload [0x42#8] = true ∧
    (({ twoBytes with ready := true } : State).dir = .receive ∨ twoBytes.rxWhileTx = .delivered) := by decide

theorem test_witness_NewFrameDuringDrain :
    twoBytes.Inv ∧ 1 ≤ twoBytes.count.toNat ∧ 2 ≤ twoBytes.count.toNat ∧ [0x78#8, 0x79#8].length ≤ 128 ∧
    [0x78#8, 0x79#8].all isData = true ∧ (twoBytes.dir = .receive ∨ twoBytes.rxWhileTx = .delivered) := by
  decide

/-- A quiet line: bytes outside frames, a stray end delimiter, polls, and a send. -/
theorem test_witness_QuietLineKeepsThePayload :
    let s := { lastCell with ready := true }
    let ops := [Instr.rxData 0x41#8, .rxEnd, .rdyPoll, .dirTx, .txByte 0x5B#8, .rxStart, .txDone, .dirRx]
    s.started = .idle ∧ s.ready = true ∧ pQuietFrom (some .waiting) (entriesOf ops s) = true ∧
    pQuietFrom (some .draining) (entriesOf ops s) = true ∧ pQuietFrom (some .drained) (entriesOf ops s) = true ∧
    (∀ i ∈ ops, issuer i ≠ .test ∧ i ≠ .rbPop ∧ i ≠ .rdyClr ∧ i ≠ .sysReset) ∧
    nextOf (execAll ops s) = some (execOn ops s) := by decide

theorem test_witness_DirectionOperations :
    (transmitting false).txBusy = false ∧ (transmitting true).txBusy = true := by decide

theorem test_witness_TransmitByteCases :
    ((transmitting false).dir = .transmit ∧ (transmitting false).txBusy = false) ∧
    ((transmitting true).dir = .transmit ∧ (transmitting true).txBusy = true) ∧
    State.reset.dir = .receive := by decide

theorem test_witness_TransmitDoneCases :
    (transmitting true).txBusy = true ∧ State.reset.txBusy = false := by decide

/-- V44. -/
theorem test_witness_HeldByteProceedsAfterDone :
    let s := ((transmitting true).setQueue .cons [0x942#12]).setQueue .shift [0xA00#12]
    let s := s.setSchedule [[.cons], [.shift], [.cons]]
    s.dir = .transmit ∧ s.txBusy = true ∧ decode 0x942#12 = .ok (.txByte 0x42#8) ∧
    decode 0xA00#12 = .ok .txDone ∧ s.input.cons = [0x942#12] ∧ s.input.shift = [0xA00#12] ∧
    s.input.schedule = [[.cons], [.shift], [.cons]] := by
  refine ⟨?_, ?_, ?_, ?_, ?_, ?_, ?_⟩ <;> decide

/-- A sequence that meets both faults. -/
theorem test_witness_NothingLeavesABusyTransmitter :
    (transmitting true).txBusy = true ∧
    (∀ i ∈ [Instr.rxData 0x41#8, .dirRx, .txByte 0x42#8, .dirTx, .txByte 0x43#8],
      i ≠ .txDone ∧ i ≠ .sysReset) := by decide

theorem test_witness_SendDrivesTheFrame : twoBytes.txBusy = false := by decide

/-- V51, with a byte received before it. -/
theorem test_witness_TransmitDisciplineAvoidsFaults :
    State.reset.dir = .receive ∧ State.reset.txBusy = false ∧
    pTxSeq (entriesOf (.rxStart :: send []) State.reset) = true := by decide

theorem test_witness_TransmittingLeavesTheReceiverAlone :
    twoBytes.txBusy = false ∧ twoBytes.rxWhileTx = .blocked := by decide

/-- For each variable an operation that changes it. -/
theorem test_witness_WritersOfEachVariable :
    leftBy (exec (.rxData 0x41#8) twoBytes) = some (after (.rxData 0x41#8) twoBytes) ∧
    (after (.rxData 0x41#8) twoBytes).store ≠ twoBytes.store ∧
    (after (.rxData 0x41#8) twoBytes).head ≠ twoBytes.head ∧
    (after .rbPop twoBytes).tail ≠ twoBytes.tail ∧ (after .rbPop twoBytes).count ≠ twoBytes.count ∧
    (after .rxEnd twoBytes).started ≠ twoBytes.started ∧ (after .rxEnd twoBytes).ready ≠ twoBytes.ready ∧
    (after .dirTx twoBytes).dir ≠ twoBytes.dir ∧
    (after .txDone (transmitting true)).txBusy ≠ (transmitting true).txBusy ∧
    (after (.txByte 0x41#8) (transmitting false)).wireOut ≠ (transmitting false).wireOut ∧
    (after (.txByte 0x41#8) (transmitting true)).input ≠ (transmitting true).input := by decide

theorem test_witness_ReceiverIgnoresReadyAndStore :
    ({ twoBytes with ready := true } : State).ready = true := by decide

theorem test_witness_PeerBytesArriveInOrder :
    State.reset.dir = .receive ∧ (transmitting true).dir = .transmit ∧
    (transmitting true).rxWhileTx = .blocked := by decide

theorem test_witness_HeardFrameIsAnnounced :
    pPayload [0x48#8, 0x69#8] = true ∧ twoBytes.dir = .receive ∧ twoBytes.input = Input.empty := by decide

end Sys2Proof.Tests
end

section
/-! PROOFS. What the operations do to the ring buffer's registers, its array and the `ready` flag (10_state.md). -/

namespace Sys2Proof.Machine

/-! ## Numbers -/

/-- `full` refuted, as a number. -/
theorem State.full_eq_false_iff (s : State) : s.full = false ↔ s.count.toNat ≠ 128 := by
  rw [← Bool.not_eq_true, s.full_iff]

/-- `empty` refuted, as a number. -/
theorem State.empty_eq_false_iff (s : State) : s.empty = false ↔ s.count.toNat ≠ 0 := by
  rw [← Bool.not_eq_true, s.empty_iff]

/-- The advance of a cursor is modulo 128 (R12). -/
theorem advance_toNat (x : Cursor) : (advance x).toNat = (x.toNat + 1) % 128 := BitVec.toNat_add x 1

/-- The advance of a cursor takes 127 to 0 (R12). -/
theorem advance_toNat_of_last {x : Cursor} (h : x.toNat = 127) : (advance x).toNat = 0 := by
  rw [advance_toNat, h]

/-- Cursors that agree with the count stand together exactly at the two ends of its range. -/
theorem State.head_eq_tail_iff {s : State} (hc : s.count.toNat ≤ 128) (ha : s.cursorsAgree) :
    s.head = s.tail ↔ s.empty = true ∨ s.full = true := by
  have ht : s.tail.toNat < 128 := cursor_lt s.tail
  have ha : s.head.toNat = (s.tail.toNat + s.count.toNat) % 128 := ha
  rw [← BitVec.toNat_inj, s.empty_iff, s.full_iff]
  omega

/-! ## Exact next states where the buffer changes -/

/-- A push that finds room appends (R52). -/
theorem exec_rbPush_of_not_full (b : Byte) {s : State} (h : s.full = false) :
    exec (.rbPush b) s = .next ((s.append b).give (.push true)) := by
  simp [exec, execRbPush, State.rbPush, h]

/-- A byte delivered while Receiving appends where there is room (R61). -/
theorem exec_rxData_of_not_full (b : Byte) {s : State} (he : s.rxEnabled = true)
    (hs : s.started = .receiving) (hf : s.full = false) :
    exec (.rxData b) s = .next ((s.append b).give .none) := by
  simp [exec, execRxData, State.deliver, State.captureByte, State.rbPush, he, hs, hf]

/-- A pop that finds a byte drops the oldest and hands it back (R53). -/
theorem exec_rbPop_of_not_empty {s : State} (h : s.empty = false) :
    exec .rbPop s = .next (s.dropOldest.give (.pop (some s.oldest))) := by
  simp [exec, execRbPop, State.rbPop, h]

/-- An end delimiter delivered while Receiving completes the frame (R60). -/
theorem exec_rxEnd_of_receiving {s : State} (he : s.rxEnabled = true) (hs : s.started = .receiving) :
    exec .rxEnd s = .next (State.give { s with started := .idle, ready := true } .none) := by
  simp [exec, execRxEnd, State.deliver, State.endFrame, he, hs]

/-! ## What any operation does to RB and to `ready` -/

/-- The variables of RB (R8): what the three operations of the ring buffer act on. -/
structure Ring where
  /-- The 128 cells (R9). -/
  store : Memory
  /-- The write cursor (R10). -/
  head : Cursor
  /-- The read cursor (R11). -/
  tail : Cursor
  /-- The count of occupied cells (R14). -/
  count : Count

/-- The part of the state that is RB. -/
def State.ring (s : State) : Ring := { store := s.store, head := s.head, tail := s.tail, count := s.count }

/-- Everything an operation can do to RB: nothing, or one of the three operations of RB. -/
theorem Effect.ring_cases {i : Instr} {s t : State} (h : Effect i s t) :
    t.ring = s.ring ∨
    (∃ b, (i = .rbPush b ∨ i = .rxData b) ∧ s.full = false ∧ t.ring = (s.append b).ring) ∨
    (i = .rbPop ∧ s.empty = false ∧ t.ring = s.dropOldest.ring) ∨
    ((i = .rbReset ∨ i = .rxStart ∨ i = .sysReset) ∧ t.ring = s.rbReset.ring) := by
  cases i with
  | rbPush b =>
    obtain ⟨-, rfl⟩ | ⟨hf, rfl⟩ := h
    · exact .inl rfl
    · exact .inr (.inl ⟨b, .inl rfl, hf, rfl⟩)
  | rxData b =>
    obtain ⟨-, rfl⟩ | ⟨-, -, rfl⟩ | ⟨-, -, -, rfl⟩ | ⟨-, -, hf, rfl⟩ := h
    · exact .inl rfl
    · exact .inl rfl
    · exact .inl rfl
    · exact .inr (.inl ⟨b, .inr rfl, hf, rfl⟩)
  | rbPop =>
    obtain ⟨-, rfl⟩ | ⟨he, rfl⟩ := h
    · exact .inl rfl
    · exact .inr (.inr (.inl ⟨rfl, he, rfl⟩))
  | rbReset => cases h; exact .inr (.inr (.inr ⟨.inl rfl, rfl⟩))
  | rxStart =>
    obtain ⟨-, rfl⟩ | ⟨-, -, rfl⟩ | ⟨-, -, rfl⟩ := h
    · exact .inl rfl
    · exact .inr (.inr (.inr ⟨.inr (.inl rfl), rfl⟩))
    · exact .inr (.inr (.inr ⟨.inr (.inl rfl), rfl⟩))
  | sysReset => cases h; exact .inr (.inr (.inr ⟨.inr (.inr rfl), rfl⟩))
  | rxEnd => obtain ⟨-, rfl⟩ | ⟨-, -, rfl⟩ | ⟨-, -, rfl⟩ := h <;> exact .inl rfl
  | rdyPoll => cases h; exact .inl rfl
  | rdyClr => cases h; exact .inl rfl
  | dirTx => cases h; exact .inl rfl
  | dirRx => obtain ⟨-, rfl⟩ | ⟨-, rfl⟩ := h <;> exact .inl rfl
  | txByte b => obtain ⟨-, rfl⟩ | ⟨-, -, rfl⟩ | ⟨-, -, rfl⟩ := h <;> exact .inl rfl
  | txDone => obtain ⟨-, rfl⟩ | ⟨-, rfl⟩ := h <;> exact .inl rfl

/-- Everything an operation can do to `ready` (R16): set by an end delimiter, cleared by RDY.CLR and SYS.RESET. -/
theorem Effect.ready_cases {i : Instr} {s t : State} (h : Effect i s t) :
    t.ready = s.ready ∨ (t.ready = true ∧ i = .rxEnd ∧ s.started = .receiving) ∨
    (t.ready = false ∧ (i = .rdyClr ∨ i = .sysReset)) := by
  cases i with
  | rxEnd =>
    obtain ⟨-, rfl⟩ | ⟨-, -, rfl⟩ | ⟨-, hs, rfl⟩ := h
    · exact .inl rfl
    · exact .inl rfl
    · exact .inr (.inl ⟨rfl, rfl, hs⟩)
  | rdyClr => cases h; exact .inr (.inr ⟨rfl, .inl rfl⟩)
  | sysReset => cases h; exact .inr (.inr ⟨rfl, .inr rfl⟩)
  | rbPush b => obtain ⟨-, rfl⟩ | ⟨-, rfl⟩ := h <;> exact .inl rfl
  | rbPop => obtain ⟨-, rfl⟩ | ⟨-, rfl⟩ := h <;> exact .inl rfl
  | rbReset => cases h; exact .inl rfl
  | rxStart => obtain ⟨-, rfl⟩ | ⟨-, -, rfl⟩ | ⟨-, -, rfl⟩ := h <;> exact .inl rfl
  | rxData b =>
    obtain ⟨-, rfl⟩ | ⟨-, -, rfl⟩ | ⟨-, -, -, rfl⟩ | ⟨-, -, -, rfl⟩ := h <;> exact .inl rfl
  | rdyPoll => cases h; exact .inl rfl
  | dirTx => cases h; exact .inl rfl
  | dirRx => obtain ⟨-, rfl⟩ | ⟨-, rfl⟩ := h <;> exact .inl rfl
  | txByte b => obtain ⟨-, rfl⟩ | ⟨-, -, rfl⟩ | ⟨-, -, rfl⟩ := h <;> exact .inl rfl
  | txDone => obtain ⟨-, rfl⟩ | ⟨-, rfl⟩ := h <;> exact .inl rfl

/-- No operation brings the count out of 0..128 (R14): it goes up only below 128 and down only above 0. -/
theorem Effect.count_le {i : Instr} {s t : State} (h : Effect i s t) (hc : s.count.toNat ≤ 128) :
    t.count.toNat ≤ 128 := by
  obtain e | ⟨b, -, hf, e⟩ | ⟨-, he, e⟩ | ⟨-, e⟩ := h.ring_cases <;>
    replace e := congrArg Ring.count e <;> simp only [State.ring] at e <;> rw [e]
  · exact hc
  · have hn := s.full_eq_false_iff.mp hf
    rw [State.append_count, count_succ (by omega)]
    omega
  · have hn := s.empty_eq_false_iff.mp he
    rw [State.dropOldest_count, count_pred (by omega)]
    omega
  · exact Nat.zero_le 128

/-- A `head` that an operation moves is advanced by a push or a captured byte, or set to 0 by a reset of RB. -/
theorem Effect.head_of_ne {i : Instr} {s t : State} (h : Effect i s t) (hne : t.head ≠ s.head) :
    (∃ b, i = .rbPush b ∨ i = .rxData b) ∧ t.head = advance s.head ∨
    (i = .rbReset ∨ i = .rxStart ∨ i = .sysReset) ∧ t.head = 0 := by
  obtain e | ⟨b, hi, -, e⟩ | ⟨-, -, e⟩ | ⟨hi, e⟩ := h.ring_cases <;> replace e := congrArg Ring.head e
  · exact absurd e hne
  · exact .inl ⟨⟨b, hi⟩, e⟩
  · exact absurd e hne
  · exact .inr ⟨hi, e⟩

/-- A `tail` that an operation moves is advanced by a pop, or set to 0 by a reset of RB. -/
theorem Effect.tail_of_ne {i : Instr} {s t : State} (h : Effect i s t) (hne : t.tail ≠ s.tail) :
    i = .rbPop ∧ t.tail = advance s.tail ∨
    (i = .rbReset ∨ i = .rxStart ∨ i = .sysReset) ∧ t.tail = 0 := by
  obtain e | ⟨b, -, -, e⟩ | ⟨hi, -, e⟩ | ⟨hi, e⟩ := h.ring_cases <;> replace e := congrArg Ring.tail e
  · exact absurd e hne
  · exact absurd e hne
  · exact .inl ⟨hi, e⟩
  · exact .inr ⟨hi, e⟩

/-! ## The obligations -/

/-- Settles O15: the range of the count by `Effect.count_le`, equal cursors by the arithmetic of R13's agreement. -/
theorem countAloneTellsFullFromEmpty : Obligations.CountAloneTellsFullFromEmpty := by
  refine ⟨Nat.zero_le 128, fun s => ⟨s.full_iff, s.empty_iff⟩, ?_, ?_⟩
  · intro i s t hc h
    exact (effect_of_leftBy h).count_le hc
  · intro s ⟨_, hcount, hagree, _⟩
    exact State.head_eq_tail_iff hcount hagree

/-- Settles O16: the three exact next states for the moves by one, `Effect.ring_cases` for who else moves a cursor. -/
theorem cursorAdvanceWraps : Obligations.CursorAdvanceWraps := by
  refine ⟨?push, ?capture, ?pop, ?frame⟩
  case push =>
    intro b s hc
    exact ⟨_, exec_rbPush_of_not_full b (s.full_eq_false_iff.mpr hc), advance_toNat _, advance_toNat_of_last, rfl⟩
  case capture =>
    intro b s hd hs hc
    exact ⟨_, exec_rxData_of_not_full b (s.rxEnabled_iff.mpr hd) hs (s.full_eq_false_iff.mpr hc),
      advance_toNat _, advance_toNat_of_last, rfl⟩
  case pop =>
    intro s hc
    exact ⟨_, exec_rbPop_of_not_empty (s.empty_eq_false_iff.mpr hc), advance_toNat _, advance_toNat_of_last, rfl⟩
  case frame =>
    intro i s t h
    have he := effect_of_leftBy h
    refine ⟨fun hne => ?_, fun hne => ?_, cursor_lt t.head, cursor_lt t.tail⟩
    · obtain ⟨hi, e⟩ | ⟨hi, e⟩ := he.head_of_ne hne <;> rw [e]
      · exact .inl ⟨hi, advance_toNat _⟩
      · exact .inr ⟨hi, rfl⟩
    · obtain ⟨hi, e⟩ | ⟨hi, e⟩ := he.tail_of_ne hne <;> rw [e]
      · exact .inl ⟨hi, advance_toNat _⟩
      · exact .inr ⟨hi, rfl⟩

/-- Settles O40: the writers of the flag by `Effect.ready_cases`, and each of the four operations by its next state. -/
theorem readyHasOneSetter : Obligations.ReadyHasOneSetter := by
  refine ⟨fun i s t h => (effect_of_leftBy h).ready_cases, ?_, fun s => ⟨_, rfl, rfl⟩,
    fun s => ⟨_, rfl, rfl⟩, fun s => ⟨_, rfl, rfl, rfl⟩⟩
  intro s hd hs
  exact ⟨_, exec_rxEnd_of_receiving (s.rxEnabled_iff.mpr hd) hs, rfl⟩

end Sys2Proof.Machine
end

section
/-! PROOFS. Who writes the array `store` and who reads it (20_memory.md). -/

namespace Sys2Proof.Machine

/-! ## The memory primitives -/

/-- A read after a write: the byte written, or what the cell held before (R25). -/
theorem Memory.read_write (m : Memory) (a b : Nat) (v : Byte) :
    Memory.read (Memory.write m a v) b = if b = a then v else Memory.read m b := by
  rw [Memory.read, Memory.lookup_write]
  split <;> rfl

/-! ## An operation leaves one state -/

/-- The guards of an effect exclude each other, so it allows one state only. -/
theorem Effect.unique {i : Instr} {s t t' : State} (h : Effect i s t) (h' : Effect i s t') : t = t' := by
  cases i with
  | rbPush b => cases hf : s.full <;> simp_all [Effect]
  | rbPop => cases he : s.empty <;> simp_all [Effect]
  | rxStart => cases he : s.rxEnabled <;> cases hs : s.started <;> simp_all [Effect]
  | rxEnd => cases he : s.rxEnabled <;> cases hs : s.started <;> simp_all [Effect]
  | rxData b => cases he : s.rxEnabled <;> cases hs : s.started <;> cases hf : s.full <;> simp_all [Effect]
  | dirRx => cases hb : s.txBusy <;> simp_all [Effect]
  | txByte b => cases hd : s.dir <;> cases hb : s.txBusy <;> simp_all [Effect]
  | txDone => cases hb : s.txBusy <;> simp_all [Effect]
  | rbReset => exact h.trans h'.symm
  | rdyPoll => exact h.trans h'.symm
  | rdyClr => exact h.trans h'.symm
  | dirTx => exact h.trans h'.symm
  | sysReset => exact h.trans h'.symm

/-- The state an operation leaves is the one its effect allows. -/
theorem leftBy_exec_iff {i : Instr} {s t : State} : leftBy (exec i s) = some t ↔ Effect i s t := by
  refine ⟨effect_of_leftBy, fun h => ?_⟩
  obtain ⟨t', h', e⟩ := leftBy_exec i s
  rw [h', e.unique h]

/-! ## What an operation writes to the store -/

/-- Whatever is neither a push nor a captured byte leaves the store as it was (R25). -/
theorem Effect.store_of_not_push {i : Instr} {s t : State} (h : Effect i s t)
    (hi : ∀ b, ¬ (i = .rbPush b ∨ i = .rxData b)) : t.store = s.store := by
  obtain e | ⟨b, hb, -, -⟩ | ⟨-, -, e⟩ | ⟨-, e⟩ := h.ring_cases
  · exact congrArg Ring.store e
  · exact absurd hb (hi b)
  · exact congrArg Ring.store e
  · exact congrArg Ring.store e

/-- Everything an operation can do to the store: nothing, or one write of the byte it carries, at `head`. -/
theorem Effect.store_cases {i : Instr} {s t : State} (h : Effect i s t) :
    (storedCell i s = none ∧ t.store = s.store) ∨
    (storedCell i s = some s.head.toNat ∧
      ∃ b, (i = .rbPush b ∨ i = .rxData b) ∧ t.store = Memory.write s.store s.head.toNat b) := by
  cases i with
  | rbPush b =>
    obtain ⟨hf, rfl⟩ | ⟨hf, rfl⟩ := h
    · exact .inl ⟨by simp [storedCell, hf], rfl⟩
    · exact .inr ⟨by simp [storedCell, hf], b, .inl rfl, rfl⟩
  | rxData b =>
    obtain ⟨he, rfl⟩ | ⟨-, hs, rfl⟩ | ⟨-, -, hf, rfl⟩ | ⟨he, hs, hf, rfl⟩ := h
    · exact .inl ⟨by simp [storedCell, he], rfl⟩
    · exact .inl ⟨by simp [storedCell, hs], rfl⟩
    · exact .inl ⟨by simp [storedCell, hf], rfl⟩
    · exact .inr ⟨by simp [storedCell, he, hs, hf], b, .inr rfl, rfl⟩
  | _ => exact .inl ⟨rfl, h.store_of_not_push (by simp)⟩

/-! ## With another store in place of the state's own -/

/-- Which cell an operation writes does not depend on what the store holds. -/
theorem storedCell_with_store (i : Instr) (s : State) (m : Memory) :
    storedCell i { s with store := m } = storedCell i s := by cases i <;> rfl

/-- With another store every operation but a pop takes the same branch and leaves the same state, up to the store
(R26): no guard reads the store, and no branch does. -/
theorem Effect.with_store {i : Instr} {s t : State} (hi : i ≠ .rbPop) (h : Effect i s t) (m : Memory) :
    ∃ m', Effect i { s with store := m } { t with store := m' } := by
  cases i with
  | rbPop => exact absurd rfl hi
  | rbPush b =>
    obtain ⟨hf, rfl⟩ | ⟨hf, rfl⟩ := h
    · exact ⟨m, .inl ⟨hf, rfl⟩⟩
    · exact ⟨Memory.write m s.head.toNat b, .inr ⟨hf, rfl⟩⟩
  | rxData b =>
    obtain ⟨he, rfl⟩ | ⟨he, hs, rfl⟩ | ⟨he, hs, hf, rfl⟩ | ⟨he, hs, hf, rfl⟩ := h
    · exact ⟨m, .inl ⟨he, rfl⟩⟩
    · exact ⟨m, .inr (.inl ⟨he, hs, rfl⟩)⟩
    · exact ⟨m, .inr (.inr (.inl ⟨he, hs, hf, rfl⟩))⟩
    · exact ⟨Memory.write m s.head.toNat b, .inr (.inr (.inr ⟨he, hs, hf, rfl⟩))⟩
  | rxStart =>
    obtain ⟨he, rfl⟩ | ⟨he, hs, rfl⟩ | ⟨he, hs, rfl⟩ := h
    · exact ⟨m, .inl ⟨he, rfl⟩⟩
    · exact ⟨m, .inr (.inl ⟨he, hs, rfl⟩)⟩
    · exact ⟨m, .inr (.inr ⟨he, hs, rfl⟩)⟩
  | rxEnd =>
    obtain ⟨he, rfl⟩ | ⟨he, hs, rfl⟩ | ⟨he, hs, rfl⟩ := h
    · exact ⟨m, .inl ⟨he, rfl⟩⟩
    · exact ⟨m, .inr (.inl ⟨he, hs, rfl⟩)⟩
    · exact ⟨m, .inr (.inr ⟨he, hs, rfl⟩)⟩
  | dirRx =>
    obtain ⟨hb, rfl⟩ | ⟨hb, rfl⟩ := h
    · exact ⟨m, .inl ⟨hb, rfl⟩⟩
    · exact ⟨m, .inr ⟨hb, rfl⟩⟩
  | txByte b =>
    obtain ⟨hd, rfl⟩ | ⟨hd, hb, rfl⟩ | ⟨hd, hb, rfl⟩ := h
    · exact ⟨m, .inl ⟨hd, rfl⟩⟩
    · exact ⟨m, .inr (.inl ⟨hd, hb, rfl⟩)⟩
    · exact ⟨m, .inr (.inr ⟨hd, hb, rfl⟩)⟩
  | txDone =>
    obtain ⟨hb, rfl⟩ | ⟨hb, rfl⟩ := h
    · exact ⟨m, .inl ⟨hb, rfl⟩⟩
    · exact ⟨m, .inr ⟨hb, rfl⟩⟩
  | rbReset => cases h; exact ⟨m, rfl⟩
  | rdyPoll => cases h; exact ⟨m, rfl⟩
  | rdyClr => cases h; exact ⟨m, rfl⟩
  | dirTx => cases h; exact ⟨m, rfl⟩
  | sysReset => cases h; exact ⟨m, rfl⟩

/-- A pop of an empty buffer hands back no byte (R53). -/
theorem exec_rbPop_of_empty {s : State} (h : s.empty = true) : exec .rbPop s = .next (s.give (.pop none)) := by
  simp [exec, execRbPop, State.rbPop, h]

/-- A pop does the same with another store that holds the same byte at `tail` (R26). -/
theorem exec_rbPop_with_store {s t : State} {m : Memory}
    (hm : Memory.read m s.tail.toNat = Memory.read s.store s.tail.toNat) (h : exec .rbPop s = .next t) :
    exec .rbPop { s with store := m } = .next { t with store := m } := by
  have ho : State.oldest { s with store := m } = s.oldest := hm
  cases he : s.empty with
  | true =>
    rw [exec_rbPop_of_empty he] at h
    cases h
    exact exec_rbPop_of_empty (s := { s with store := m }) he
  | false =>
    rw [exec_rbPop_of_not_empty he] at h
    cases h
    rw [exec_rbPop_of_not_empty (s := { s with store := m }) he, ho]
    rfl

/-! ## The obligations -/

/-- Settles O25: the read after a write, and `Effect.store_cases` for the one write of an operation. -/
theorem memWriteChangesOneCell : Obligations.MemWriteChangesOneCell := by
  refine ⟨Memory.read_write, fun i s t h => ?_⟩
  obtain ⟨-, e⟩ | ⟨-, hb⟩ := (effect_of_leftBy h).store_cases
  · exact .inl e
  · exact .inr hb

/-- Settles O26: the pop by its next state, every other operation by `Effect.with_store`, and what it leaves in the
other store by `Effect.store_cases`. -/
theorem onlyPopReadsTheStore : Obligations.OnlyPopReadsTheStore := by
  refine ⟨?pop, fun s t m => exec_rbPop_with_store, ?other⟩
  case pop =>
    intro s hc
    exact ⟨_, exec_rbPop_of_not_empty (s.empty_eq_false_iff.mpr (by omega)), rfl, rfl⟩
  case other =>
    intro i s t m hi h
    obtain ⟨m', e⟩ := (effect_of_leftBy h).with_store hi m
    refine ⟨m', leftBy_exec_iff.mpr e, ?_⟩
    obtain ⟨hn, hm⟩ | ⟨hs, hb⟩ := e.store_cases
    · rw [storedCell_with_store] at hn
      exact ⟨fun _ => hm, fun a ha => by simp [hn] at ha⟩
    · rw [storedCell_with_store] at hs
      exact ⟨fun hn => by simp [hs] at hn, fun _ _ => hb⟩

end Sys2Proof.Machine
end

section
/-! PROOFS. What sequences of operations do to the occupancy of the ring buffer (40_ring_buffer.md). -/

namespace Sys2Proof.Machine

/-! ## Sequences of operations -/

/-- A sequence goes on from the next state of its first operation. -/
theorem execAll_cons_of_next {i : Instr} {s t : State} (h : exec i s = .next t) (is : List Instr) :
    execAll (i :: is) s = execAll is t := by
  simp [execAll, h]

/-- A predicate under which every operation of a sequence answers a next state that keeps it is kept by the whole
sequence, which stops at no fault and no refusal. -/
theorem execAll_keeps {P : State → Prop} {ops : List Instr} {s : State}
    (hstep : ∀ i ∈ ops, ∀ u, P u → ∃ t, exec i u = .next t ∧ P t) (hs : P s) :
    ∃ t, execAll ops s = .next t ∧ P t := by
  induction ops generalizing s with
  | nil => exact ⟨s, rfl, hs⟩
  | cons i is ih =>
    obtain ⟨u, hu, hP⟩ := hstep i List.mem_cons_self s hs
    rw [execAll_cons_of_next hu]
    exact ih (fun j hj => hstep j (List.mem_cons_of_mem i hj)) hP

/-! ## Pushes -/

/-- A push into a full buffer reports so and changes nothing else (R52). -/
theorem exec_rbPush_of_full (b : Byte) {s : State} (h : s.full = true) :
    exec (.rbPush b) s = .next (s.give (.push false)) := by
  simp [exec, execRbPush, State.rbPush, h]

/-- Pushes for which there is room all succeed: the count goes up by their number, `head` goes on by it modulo 128
(R12), and `tail` stays. -/
theorem execAll_rbPush_of_room (bs : List Byte) (s : State) (hroom : s.count.toNat + bs.length ≤ 128) :
    ∃ t, execAll (bs.map .rbPush) s = .next t ∧ t.count.toNat = s.count.toNat + bs.length ∧
      t.head.toNat = (s.head.toNat + bs.length) % 128 ∧ t.tail = s.tail ∧
      (bs ≠ [] ∨ s.result = .push true → t.result = .push true) := by
  induction bs generalizing s with
  | nil => exact ⟨s, rfl, rfl, (Nat.mod_eq_of_lt (cursor_lt s.head)).symm, rfl, by simp⟩
  | cons b bs ih =>
    rw [List.length_cons] at hroom ⊢
    have hpush := exec_rbPush_of_not_full b (s.full_eq_false_iff.mpr (by omega))
    have hcount : ((s.append b).give (.push true)).count.toNat = s.count.toNat + 1 := count_succ (by omega)
    have hhead : ((s.append b).give (.push true)).head.toNat = (s.head.toNat + 1) % 128 := advance_toNat _
    obtain ⟨t, ht, hc, hh, htail, hres⟩ := ih ((s.append b).give (.push true)) (by omega)
    exact ⟨t, (execAll_cons_of_next hpush _).trans ht, by omega, by omega, htail, fun _ => hres (.inr rfl)⟩

/-! ## The obligations -/

/-- Settles O21: `Effect.count_le` along the sequence by `execAll_keeps`; the two failures by their next states. -/
theorem capacityInvariant : Obligations.CapacityInvariant := by
  refine ⟨?range, fun b s hc => exec_rbPush_of_full b (s.full_iff.mpr hc),
    fun s hc => exec_rbPop_of_empty (s.empty_iff.mpr hc)⟩
  case range =>
    intro ops s hops hc
    refine execAll_keeps (P := fun u => u.count.toNat ≤ 128) (fun i hi u hu => ?_) hc
    have hring := hops i hi
    obtain ⟨t, ht, he⟩ := exec_next_unless_misuse i u (by rintro rfl; simp at hring)
      (by rintro b rfl; simp at hring)
    exact ⟨t, ht, he.count_le hu⟩

/-- Settles O22: 128 pushes bring `head` once around the array, by `execAll_rbPush_of_room`; each reset by its next
state. -/
theorem fullAndEmptyAtEqualCursors : Obligations.FullAndEmptyAtEqualCursors := by
  refine ⟨?pushes, ?resets, rfl, rfl, rfl, rfl⟩
  case pushes =>
    intro bs s hlen hempty hcur
    obtain ⟨t, ht, hc, hh, htail, hres⟩ := execAll_rbPush_of_room bs s (by omega)
    have hfull : t.count.toNat = 128 := by omega
    have hlt : s.head.toNat < 128 := cursor_lt s.head
    have hround : t.head = s.head := BitVec.eq_of_toNat_eq (by omega)
    have hne : bs ≠ [] := List.ne_nil_of_length_pos (by omega)
    exact ⟨t, ht, by rw [hround, hcur, htail], hfull, t.full_iff.mpr hfull,
      t.empty_eq_false_iff.mpr (by omega), hres (.inl hne)⟩
  case resets =>
    rintro i s (rfl | rfl) <;> exact ⟨_, rfl, rfl, rfl, rfl, rfl⟩

end Sys2Proof.Machine
end

section
/-! PROOFS. What the frame receiver does with one delivered byte of each class (41_frame_receiver.md). -/

namespace Sys2Proof

/-! ## The words of the received bytes -/

/-- A word with the code of FR.RXBYTE spells the class of the byte it carries (R45). -/
theorem decode_rxWord (b : Byte) : decode (0x4#4 ++ b) = .ok (rxByte b) := by
  obtain ⟨hop, hdata⟩ := Laws.OpField.fields 0x4#4 b
  rw [decode, hop, hdata]
  rfl

/-- The byte of an FR.RXBYTE word does not reach into the code, so that joining the two bitwise is putting them side by
side (R43). -/
theorem rxWord_or_eq_append (b : Byte) : 0x400#12 ||| b.setWidth 12 = (0x4#4 ++ b : BitVec (4 + 8)) := by
  rw [BitVec.append_def]
  rfl

/-- A byte that is neither delimiter is data (R42). -/
theorem rxByte_of_data {b : Byte} (hs : b ≠ Config.startByte) (he : b ≠ Config.endByte) :
    rxByte b = .rxData b := by
  simp [rxByte, hs, he]

end Sys2Proof

namespace Sys2Proof.Machine

/-! ## Exact next states for a delivered byte -/

/-- A start delimiter resets RB and enters Receiving in either state of FR; only the event log tells the two states
apart (R59, R85). -/
theorem State.startFrame_eq (s : State) :
    s.startFrame = { s.rbReset with started := .receiving, events := s.startFrame.events } := by
  unfold State.startFrame
  cases s.started <;> rfl

/-- A delivered start delimiter begins a frame (R59). -/
theorem exec_rxStart_of_enabled {s : State} (he : s.rxEnabled = true) :
    exec .rxStart s = .next (s.startFrame.give .none) := by
  simp [exec, execRxStart, State.deliver, he]

/-- An end delimiter delivered while Idle is only entered in the event log (R60, R85). -/
theorem exec_rxEnd_of_idle {s : State} (he : s.rxEnabled = true) (hs : s.started = .idle) :
    exec .rxEnd s = .next ((s.note .endWithoutStart).give .none) := by
  simp [exec, execRxEnd, State.deliver, State.endFrame, he, hs]

/-- A byte delivered while Idle is discarded (R61). -/
theorem exec_rxData_of_idle (b : Byte) {s : State} (he : s.rxEnabled = true) (hs : s.started = .idle) :
    exec (.rxData b) s = .next (s.give .none) := by
  simp [exec, execRxData, State.deliver, State.captureByte, he, hs]

/-- A byte delivered while Receiving into a full buffer is dropped, and only entered in the event log (R61, R84). -/
theorem exec_rxData_of_full (b : Byte) {s : State} (he : s.rxEnabled = true)
    (hs : s.started = .receiving) (hf : s.full = true) :
    exec (.rxData b) s = .next ((s.note .bufferOverflow).give .none) := by
  simp [exec, execRxData, State.deliver, State.captureByte, State.rbPush, he, hs, hf]

/-- A buffer whose count is 0 holds the empty queue (R13). -/
theorem State.contents_of_count_zero {s : State} (h : s.count.toNat = 0) : s.contents = [] := by
  simp [State.contents, h]

/-! ## The obligations -/

/-- Settles O30: the next state by `exec_rxStart_of_enabled`, its fields by `State.startFrame_eq`. -/
theorem startDelimiterAlwaysWins : Obligations.StartDelimiterAlwaysWins := by
  refine ⟨decode_rxWord 0x5B#8, fun s hd => ⟨_, exec_rxStart_of_enabled (s.rxEnabled_iff.mpr hd), ?_⟩⟩
  rw [s.startFrame_eq]
  exact ⟨rfl, rfl, rfl, rfl, rfl, rfl, rfl, rfl, rfl, rfl⟩

/-- Settles O31: the next state in each of the two states of FR. -/
theorem endDelimiterCompletesFrame : Obligations.EndDelimiterCompletesFrame := by
  refine ⟨decode_rxWord 0x5D#8, fun s hd => ?_⟩
  have he := s.rxEnabled_iff.mpr hd
  cases hs : s.started with
  | idle => exact ⟨_, exec_rxEnd_of_idle he hs, by simp [hs]⟩
  | receiving => exact ⟨_, exec_rxEnd_of_receiving he hs, by simp⟩

/-- Settles O32: the next state while Idle, while Receiving with RB full, and while Receiving with room. -/
theorem dataByteIsCapturedOrDropped : Obligations.DataByteIsCapturedOrDropped := by
  intro b s hstart hend hd hc
  refine ⟨by rw [rxWord_or_eq_append, decode_rxWord, rxByte_of_data hstart hend], ?_⟩
  have he := s.rxEnabled_iff.mpr hd
  cases hs : s.started with
  | idle => exact ⟨_, exec_rxData_of_idle b he hs, by simp [hs]⟩
  | receiving =>
    cases hf : s.full with
    | true =>
      have hcount := s.full_iff.mp hf
      exact ⟨_, exec_rxData_of_full b he hs hf, by simp [hs, hcount]⟩
    | false =>
      have hne := s.full_eq_false_iff.mp hf
      refine ⟨_, exec_rxData_of_not_full b he hs hf, ?room, fun _ hfull => absurd hfull hne, nofun,
        rfl, hs, rfl, rfl, rfl, rfl, rfl⟩
      case room => exact fun _ hlt => ⟨rfl, advance_toNat _, count_succ (by omega)⟩

/-- Settles O34: the start of a frame leaves the count at 0, so the queue is empty. -/
theorem restartIsIdempotent : Obligations.RestartIsIdempotent := by
  intro s hd
  obtain ⟨t, ht, -, -, hcount, hstarted, -⟩ := startDelimiterAlwaysWins.2 s hd
  have hzero : t.count.toNat = 0 := by rw [hcount]; rfl
  exact ⟨t, ht, hzero, t.contents_of_count_zero hzero, hstarted⟩

end Sys2Proof.Machine
end

section
/-! PROOFS. What is delivered of a frame whose payload holds a delimiter or more bytes than RB has cells
(70_reset_and_hazards.md). -/

namespace Sys2Proof.Machine

/-! ## Sequences of operations -/

/-- A sequence goes on from the next state of its first part. -/
theorem execAll_append_of_next {is : List Instr} {s t : State} (h : execAll is s = .next t) (js : List Instr) :
    execAll (is ++ js) s = execAll js t := by
  induction is generalizing s with
  | nil => cases h; rfl
  | cons i is ih =>
    rw [execAll] at h
    rw [List.cons_append, execAll]
    cases e : exec i s with
    | next u => rw [e] at h; exact ih h
    | fault r => rw [e] at h; cases h
    | refused r => rw [e] at h; cases h

/-! ## The abstract queue -/

/-- The abstract queue has as many bytes as the count says (R13). -/
theorem State.contents_length (s : State) : s.contents.length = s.count.toNat := by
  simp [State.contents]

/-- An append keeps the agreement of the cursors (R13). -/
theorem State.append_cursorsAgree (b : Byte) {s : State} (ha : s.cursorsAgree) (hc : s.count.toNat < 128) :
    (s.append b).cursorsAgree := by
  have ha : s.head.toNat = (s.tail.toNat + s.count.toNat) % 128 := ha
  change (advance s.head).toNat = (s.tail.toNat + (s.count + 1).toNat) % 128
  rw [advance_toNat, count_succ (by omega)]
  omega

/-- An append where there is room appends to the abstract queue: the cell written is the one behind the occupied
cells, and none of them (R13, R55). -/
theorem State.append_contents (b : Byte) {s : State} (ha : s.cursorsAgree) (hc : s.count.toNat < 128) :
    (s.append b).contents = s.contents ++ [b] := by
  have hread (k : Nat) : Memory.read (s.append b).store ((s.append b).cell k) =
      if s.cell k = s.cell s.count.toNat then b else Memory.read s.store (s.cell k) := by
    rw [State.append_store, Memory.read_write, ha]
    rfl
  have hother : ∀ k ∈ List.range s.count.toNat, s.cell k ≠ s.cell s.count.toNat := by
    intro k hk
    have hk := List.mem_range.mp hk
    change (s.tail.toNat + k) % 128 ≠ (s.tail.toNat + s.count.toNat) % 128
    omega
  rw [State.contents, State.append_count, count_succ (by omega), List.range_succ, List.map_append,
    List.map_singleton, hread, if_pos rfl]
  exact congrArg (· ++ [b]) (List.map_congr_left fun k hk => by rw [hread, if_neg (hother k hk)])

/-- The queue of a buffer that is not empty is its oldest byte and then what is left when that is dropped
(R13, R55). -/
theorem State.contents_of_not_empty {s : State} (h : s.empty = false) :
    s.contents = s.oldest :: s.dropOldest.contents := by
  have hne := s.empty_eq_false_iff.mp h
  have htail : s.tail.toNat < 128 := cursor_lt s.tail
  have hcell (k : Nat) : s.dropOldest.cell k = s.cell (k + 1) := by
    change ((advance s.tail).toNat + k) % 128 = (s.tail.toNat + (k + 1)) % 128
    rw [advance_toNat]
    omega
  have hfirst : s.cell 0 = s.tail.toNat := Nat.mod_eq_of_lt htail
  obtain ⟨n, hn⟩ := Nat.exists_eq_succ_of_ne_zero hne
  have hrest : (s.count - 1).toNat = n := by rw [count_pred (by omega)]; omega
  rw [State.contents, State.contents, State.dropOldest_count, hrest, hn, List.range_succ_eq_map]
  simp [hfirst, hcell, State.oldest]

/-- A drain returns as many of the oldest bytes as it is allowed pops (R69). -/
theorem drain_bytes (fuel : Nat) (s : State) : (drain fuel s).1 = s.contents.take fuel := by
  induction fuel generalizing s with
  | zero => rfl
  | succ fuel ih =>
    cases he : s.empty with
    | true => simp [drain, exec_rbPop_of_empty he, s.contents_of_count_zero (s.empty_iff.mp he)]
    | false =>
      have hrest : (s.dropOldest.give (.pop (some s.oldest))).contents = s.dropOldest.contents := rfl
      simp [drain, exec_rbPop_of_not_empty he, ih, hrest, s.contents_of_not_empty he]

/-! ## A frame in progress -/

/-- A byte that is neither delimiter, by its two inequalities (R39, R40). -/
theorem isData_iff {b : Byte} : isData b = true ↔ b ≠ Config.startByte ∧ b ≠ Config.endByte := by
  simp [isData]

/-- The bytes `p` were received since the start delimiter, and RB holds as many of the first of them as it has room
for. -/
structure State.Capturing (s : State) (p : List Byte) : Prop where
  /-- Bytes are delivered to FR (R82). -/
  enabled : s.rxEnabled = true
  /-- FR is inside delimiters (R15). -/
  receiving : s.started = .receiving
  /-- The cursors agree with the count (R13). -/
  agree : s.cursorsAgree
  /-- RB holds the first 128 of the bytes (R61). -/
  held : s.contents = p.take 128

/-- How full RB is in the course of a frame. -/
theorem State.Capturing.count {s : State} {p : List Byte} (h : s.Capturing p) :
    s.count.toNat = min 128 p.length := by
  rw [← s.contents_length, h.held, List.length_take]

/-- A delivered start delimiter begins a frame with no byte in it, whatever the state (R59, R64). -/
theorem exec_rxStart_captures {s : State} (he : s.rxEnabled = true) :
    ∃ t, exec .rxStart s = .next t ∧ t.Capturing [] := by
  refine ⟨_, exec_rxStart_of_enabled he, ?_⟩
  rw [s.startFrame_eq]
  exact ⟨he, rfl, rfl, State.contents_of_count_zero rfl⟩

/-- A byte of the payload joins the frame; where RB is full it is not among the first 128 (R61). -/
theorem State.Capturing.exec_rxData {s : State} {p : List Byte} (h : s.Capturing p) (b : Byte) :
    ∃ t, exec (.rxData b) s = .next t ∧ t.Capturing (p ++ [b]) := by
  have hcount := h.count
  cases hf : s.full with
  | true =>
    have hlen : 128 ≤ p.length := by have := s.full_iff.mp hf; omega
    exact ⟨_, exec_rxData_of_full b h.enabled h.receiving hf, h.enabled, h.receiving, h.agree,
      h.held.trans (List.take_append_of_le_length hlen).symm⟩
  | false =>
    have hne := s.full_eq_false_iff.mp hf
    have hheld : (s.append b).contents = (p ++ [b]).take 128 := by
      rw [State.append_contents b h.agree (by omega), h.held, List.take_of_length_le (by omega),
        List.take_of_length_le (by rw [List.length_append, List.length_singleton]; omega)]
    exact ⟨_, exec_rxData_of_not_full b h.enabled h.receiving hf, h.enabled, h.receiving,
      State.append_cursorsAgree b h.agree (by omega), hheld⟩

/-- Payload bytes join the frame one by one (R61). -/
theorem State.Capturing.execAll_rxs {s : State} {p : List Byte} (h : s.Capturing p) {q : List Byte}
    (hq : q.all isData = true) : ∃ t, execAll (rxs q) s = .next t ∧ t.Capturing (p ++ q) := by
  induction q generalizing s p with
  | nil => exact ⟨s, rfl, by rwa [List.append_nil]⟩
  | cons b q ih =>
    rw [List.all_cons, Bool.and_eq_true, isData_iff] at hq
    obtain ⟨⟨hstart, hend⟩, hq⟩ := hq
    obtain ⟨u, hu, hcap⟩ := h.exec_rxData b
    obtain ⟨t, ht, hall⟩ := ih hcap hq
    refine ⟨t, ?_, by rwa [List.append_cons]⟩
    rw [rxs, List.map_cons, rxByte_of_data hstart hend, execAll_cons_of_next hu]
    exact ht

/-! ## A frame completed -/

/-- The message `q` lies in RB and is announced, and no frame is in progress. -/
structure State.HasMessage (s : State) (q : List Byte) : Prop where
  /-- Bytes are delivered to FR (R82). -/
  enabled : s.rxEnabled = true
  /-- FR is outside delimiters (R15). -/
  idle : s.started = .idle
  /-- The flag is set (R16). -/
  ready : s.ready = true
  /-- The operation executed last, which is one of FR's, told nobody anything (R47, R61). -/
  noResult : s.result = .none
  /-- RB holds the message (R13). -/
  held : s.contents = q

/-- An end delimiter announces what was captured (R60). -/
theorem State.Capturing.exec_rxEnd {s : State} {p : List Byte} (h : s.Capturing p) :
    ∃ t, exec .rxEnd s = .next t ∧ t.HasMessage (p.take 128) :=
  ⟨_, exec_rxEnd_of_receiving h.enabled h.receiving, h.enabled, rfl, rfl, rfl, h.held⟩

/-- Outside delimiters any byte but a start delimiter leaves the message and its announcement (R60, R61). -/
theorem State.HasMessage.exec_rxByte {s : State} {q : List Byte} (h : s.HasMessage q) {b : Byte}
    (hb : b ≠ Config.startByte) : ∃ t, exec (rxByte b) s = .next t ∧ t.HasMessage q := by
  by_cases hend : b = Config.endByte
  · subst hend
    exact ⟨_, exec_rxEnd_of_idle h.enabled h.idle, h.enabled, h.idle, h.ready, rfl, h.held⟩
  · rw [rxByte_of_data hb hend]
    exact ⟨_, exec_rxData_of_idle b h.enabled h.idle, h.enabled, h.idle, h.ready, rfl, h.held⟩

/-- A whole frame, received in whatever state of FR and of RB, announces the first 128 bytes of its payload. -/
theorem execAll_frame {p : List Byte} (hp : p.all isData = true) {s : State} (he : s.rxEnabled = true) :
    ∃ t, execAll (frame p) s = .next t ∧ t.HasMessage (p.take 128) := by
  obtain ⟨u, hu, hempty⟩ := exec_rxStart_captures he
  obtain ⟨v, hv, hcap⟩ := hempty.execAll_rxs hp
  obtain ⟨t, ht, hmsg⟩ := hcap.exec_rxEnd
  have hops : frame p = .rxStart :: (rxs p ++ [.rxEnd]) := by
    rw [frame, frameBytes, rxs, List.map_cons, List.map_append]
    rfl
  refine ⟨t, ?_, hmsg⟩
  rw [hops, execAll_cons_of_next hu, execAll_append_of_next hv, execAll_cons_of_next ht, execAll]

/-! ## What a delimiter inside a payload cuts off -/

/-- A received byte of any class meets no fault: only the transmit path has one (R76, R79). -/
theorem exec_rxByte_next (b : Byte) (s : State) :
    ∃ t, exec (rxByte b) s = .next t ∧ Effect (rxByte b) s t := by
  obtain ⟨-, e⟩ | ⟨-, e⟩ | ⟨-, -, e⟩ := rxByte_cases b <;> rw [e] <;>
    exact exec_next_unless_misuse _ s nofun nofun

/-- No received byte changes whether bytes are delivered (R82). -/
theorem Effect.rxEnabled_of_received {b : Byte} {s t : State} (h : Effect (rxByte b) s t) :
    t.rxEnabled = s.rxEnabled := by
  obtain ⟨-, e⟩ | ⟨-, e⟩ | ⟨-, -, e⟩ := rxByte_cases b <;> rw [e] at h
  · obtain ⟨-, rfl⟩ | ⟨-, -, rfl⟩ | ⟨-, -, rfl⟩ := h <;> rfl
  · obtain ⟨-, rfl⟩ | ⟨-, -, rfl⟩ | ⟨-, -, rfl⟩ := h <;> rfl
  · obtain ⟨-, rfl⟩ | ⟨-, -, rfl⟩ | ⟨-, -, -, rfl⟩ | ⟨-, -, -, rfl⟩ := h <;> rfl

/-- Bytes of any class are received without a fault, and FR stays enabled (R42, R82). -/
theorem execAll_rxs_enabled (bytes : List Byte) {s : State} (he : s.rxEnabled = true) :
    ∃ t, execAll (rxs bytes) s = .next t ∧ t.rxEnabled = true := by
  refine execAll_keeps (P := fun u => u.rxEnabled = true) (fun i hi u hu => ?_) he
  obtain ⟨b, -, rfl⟩ := List.mem_map.mp hi
  obtain ⟨t, ht, heff⟩ := exec_rxByte_next b u
  exact ⟨t, ht, heff.rxEnabled_of_received.trans hu⟩

/-- Bytes after a completed frame are discarded as long as none of them is a start delimiter (R60, R61). -/
theorem State.HasMessage.execAll_rxs {s : State} {q : List Byte} (h : s.HasMessage q) {bytes : List Byte}
    (hb : ∀ b ∈ bytes, b ≠ Config.startByte) : ∃ t, execAll (rxs bytes) s = .next t ∧ t.HasMessage q := by
  refine execAll_keeps (P := fun u => u.HasMessage q) (fun i hi u hu => ?_) h
  obtain ⟨b, hmem, rfl⟩ := List.mem_map.mp hi
  exact hu.exec_rxByte (hb b hmem)

/-- With a start delimiter in its payload, a frame is some bytes and then a frame of what follows (R38). -/
theorem frame_append_start (u v : List Byte) :
    frame (u ++ Config.startByte :: v) = rxs (Config.startByte :: u) ++ frame v := by
  simp [frame, frameBytes, rxs]

/-- With an end delimiter in its payload, a frame is a frame of what precedes it and then some bytes (R38). -/
theorem frame_append_end (u v : List Byte) :
    frame (u ++ Config.endByte :: v) = frame u ++ rxs (v ++ [Config.endByte]) := by
  simp [frame, frameBytes, rxs]

/-! ## The obligations -/

/-- Settles O37: the message by `execAll_frame`, and its drain by `drain_bytes`. -/
theorem overlongFrameIsTruncated : Obligations.OverlongFrameIsTruncated := by
  intro p s _ hp hd
  obtain ⟨t, ht, hmsg⟩ := execAll_frame hp (s.rxEnabled_iff.mpr hd)
  refine ⟨t, ht, hmsg.idle, hmsg.ready, hmsg.noResult, hmsg.held, ?_⟩
  rw [drain_bytes, hmsg.held, List.take_take]
  rfl

/-- Settles O38: both frames cut at the delimiter; what precedes a start delimiter leaves FR enabled for the frame
after it, and what follows an end delimiter leaves the message of the frame before it. -/
theorem delimiterInsidePayload : Obligations.DelimiterInsidePayload := by
  intro u v s hv hd
  have he := s.rxEnabled_iff.mpr hd
  refine ⟨?start, fun hu => ?finish⟩
  case start =>
    obtain ⟨m, hm, hen⟩ := execAll_rxs_enabled (Config.startByte :: u) he
    obtain ⟨t, ht, hmsg⟩ := execAll_frame hv hen
    rw [frame_append_start, execAll_append_of_next hm]
    exact ⟨t, ht, hmsg.ready, hmsg.idle, hmsg.held⟩
  case finish =>
    have hrest : ∀ b ∈ v ++ [Config.endByte], b ≠ Config.startByte := by
      intro b hb
      obtain hb | hb := List.mem_append.mp hb
      · exact (isData_iff.mp (List.all_eq_true.mp hv b hb)).1
      · rw [List.mem_singleton.mp hb]
        decide
    obtain ⟨m, hm, hmsg⟩ := execAll_frame hu he
    obtain ⟨t, ht, hkept⟩ := hmsg.execAll_rxs hrest
    rw [frame_append_end, execAll_append_of_next hm]
    exact ⟨t, ht, hkept.ready, hkept.idle, hkept.held⟩

end Sys2Proof.Machine
end

section
/-! PROOFS. The decoder and the encoder of command words (30_encoding.md). -/

namespace Sys2Proof

/-! ## Decoding a canonical word -/

/-- Decoding undoes encoding where an encoding exists: only RX.DATA has an operand that could name another
operation (R42). -/
theorem decode_encode {i : Instr} (h : i.wf = true) : decode (encode i) = .ok i := by
  rw [decode, op_encode, data_encode]
  cases i with
  | rxData b =>
    simp only [Instr.wf, Bool.and_eq_true, bne_iff_ne] at h
    exact congrArg Except.ok (rxByte_of_data h.1 h.2)
  | _ => rfl

/-! ## What the decoder reads from the two fields -/

/-- The class of a received byte is a well-formed operation, and its word is that of the byte (R42, R45). -/
theorem rxByte_fields (b : Byte) :
    (rxByte b).wf = true ∧ opcode (rxByte b) = 0x4#4 ∧ operand (rxByte b) = b := by
  obtain ⟨rfl, e⟩ | ⟨rfl, e⟩ | ⟨hs, he, e⟩ := rxByte_cases b <;> rw [e]
  · exact ⟨rfl, rfl, rfl⟩
  · exact ⟨rfl, rfl, rfl⟩
  · exact ⟨by simp [Instr.wf, hs, he], rfl, rfl⟩

/-- Whether the data field under an operation code carries an operand or a received byte (R45). -/
def hasOperand (op : BitVec 4) : Bool := op == 0x1#4 || op == 0x4#4 || op == 0x9#4

/-- Inversion of the decoder: the operation read is well formed, has the code it was read from, and has the data field
for its operand, or 0x00 where the code has none. -/
theorem decodeFields_ok {op : BitVec 4} {d : Byte} {i : Instr} (h : decodeFields op d = .ok i) :
    i.wf = true ∧ opcode i = op ∧ operand i = if hasOperand op then d else 0x00#8 := by
  unfold decodeFields at h
  split at h
  case h_4 => cases h; exact rxByte_fields d
  all_goals cases h
  all_goals exact ⟨rfl, rfl, rfl⟩

/-- The data field of a code without an operand is ignored (R45). -/
theorem decodeFields_ignores_data {op : BitVec 4} (h : hasOperand op = false) (d d' : Byte) :
    decodeFields op d = decodeFields op d' := by
  unfold decodeFields
  split
  case h_1 | h_4 | h_9 => cases h
  all_goals rfl

/-- The codes refused are the five that no row of the table has, each by itself (R46). -/
theorem decodeFields_error_iff (op code : BitVec 4) (d : Byte) :
    decodeFields op d = .error (.reservedOp code) ↔
      code = op ∧ (code = 0x0#4 ∨ code = 0xB#4 ∨ code = 0xC#4 ∨ code = 0xD#4 ∨ code = 0xE#4) := by
  unfold decodeFields
  split
  case h_12 =>
    refine ⟨fun h => ?_, fun ⟨h, _⟩ => by rw [h]⟩
    cases h
    have hcode := code_cases op
    tauto
  all_goals
    refine ⟨nofun, ?_⟩
    rintro ⟨rfl, h⟩
    exact absurd h (by decide)

/-- An operation read from a word spells back to it, up to a data field that is ignored (R45). -/
theorem encode_of_decode {w : Cmd} {i : Instr} (h : decode w = .ok i) :
    encode i = (Cmd.op w ++ (if hasOperand (Cmd.op w) then Cmd.data w else 0x00#8) : BitVec (4 + 8)) := by
  obtain ⟨-, hop, hdata⟩ := decodeFields_ok h
  rw [encode, hop, hdata]

/-! ## Matching by mask -/

/-- The mask of the operation code keeps that field and nothing of the data (R43). -/
theorem op_of_mask {w v : Cmd} (h : w &&& 0xF00#12 = v) : Cmd.op w = Cmd.op v := by
  rw [← h, Cmd.op, Cmd.op, BitVec.extractLsb'_and]
  exact (BitVec.and_allOnes (x := w.extractLsb' 8 4)).symm

/-- The mask of the whole word keeps it. -/
theorem word_of_mask {w v : Cmd} (h : w &&& 0xFFF#12 = v) : w = v := by
  rw [← h]
  exact (BitVec.and_allOnes (x := w)).symm

/-- The data field is the word cut to 8 bits (R43). -/
theorem data_eq_setWidth (w : Cmd) : Cmd.data w = w.setWidth 8 :=
  (BitVec.setWidth_eq_extractLsb' (by omega)).symm

/-- A word that matches under the mask of the operation code is decoded by that code. -/
theorem decode_of_mask {w v : Cmd} (h : w &&& 0xF00#12 = v) :
    decode w = decodeFields (Cmd.op v) (w.setWidth 8) := by
  rw [decode, op_of_mask h, data_eq_setWidth]

/-- A word of FR.RXBYTE that is not the word of a delimiter carries a data byte (R45). -/
theorem decode_of_mask_rxData {w : Cmd} (h : w &&& 0xF00#12 = 0x400#12) (hs : w ≠ 0x45B#12) (he : w ≠ 0x45D#12) :
    decode w = .ok (.rxData (w.setWidth 8)) := by
  have hword : ∀ b : Byte, w.setWidth 8 = b → w = (0x4#4 ++ b : BitVec (4 + 8)) := by
    intro b hb
    rw [← word_of_fields w, op_of_mask h, data_eq_setWidth, hb]
    rfl
  rw [decode_of_mask h]
  exact congrArg Except.ok (rxByte_of_data (fun hb => hs (hword _ hb)) (fun hb => he (hword _ hb)))

/-! ## The obligations -/

/-- Settles O1: `decode_encode`. -/
theorem decodeEncodeRoundTrip : Obligations.DecodeEncodeRoundTrip := fun _ => decode_encode

/-- Settles O2: the inversion of the decoder, and `encode_of_decode` for both kinds of operation code. -/
theorem decodedOperationSpellsItsWord : Obligations.DecodedOperationSpellsItsWord := by
  refine ⟨fun w i h => ?_, fun w w' hop h1 h4 h9 => ?_⟩
  · obtain ⟨hwf, hop, -⟩ := decodeFields_ok h
    refine ⟨hwf, hop, fun hcode => ?_, fun h1 h4 h9 => ?_⟩ <;> rw [encode_of_decode h]
    · have hyes : hasOperand (Cmd.op w) = true := by obtain e | e | e := hcode <;> rw [e] <;> rfl
      rw [hyes, if_pos rfl, word_of_fields]
    · have hno : hasOperand (Cmd.op w) = false := by simp [hasOperand, h1, h4, h9]
      simp [hno]
  · rw [decode, decode, ← hop]
    exact decodeFields_ignores_data (by simp [hasOperand, h1, h4, h9]) _ _

/-- Settles O3: a row with the mask of the operation code by `decode_of_mask`, a row with the mask of the whole word by
`word_of_mask`. -/
theorem tableRowsDecode : Obligations.TableRowsDecode := by
  intro w
  refine ⟨decode_of_mask, decode_of_mask, decode_of_mask, ?start, ?end_, decode_of_mask_rxData, decode_of_mask,
    decode_of_mask, decode_of_mask, decode_of_mask, decode_of_mask, decode_of_mask, decode_of_mask⟩
  case start => intro h; rw [word_of_mask h]; rfl
  case end_ => intro h; rw [word_of_mask h]; rfl

/-- Settles O4: `decodeFields_error_iff` at the fields of the word. -/
theorem reservedCodesAreRefused : Obligations.ReservedCodesAreRefused := fun w op =>
  decodeFields_error_iff (Cmd.op w) op (Cmd.data w)

/-- Settles O5: the decoder evaluated at each word of the vectors. -/
theorem sampleWordsDecode : Obligations.SampleWordsDecode := by
  unfold Obligations.SampleWordsDecode
  decide

/-- Settles O29: the class by `rxByte_of_data`, its word by `decode_rxWord`. -/
theorem receivedByteHasOneClass : Obligations.ReceivedByteHasOneClass :=
  ⟨rfl, rfl, fun _ => rxByte_of_data, fun b => ⟨(rxByte_fields b).1, decode_rxWord b⟩⟩

end Sys2Proof
end

section
/-! PROOFS. The invariant of the ring buffer, kept by every step (10_state.md). -/

namespace Sys2Proof.Machine

/-! ## The three operations of RB -/

/-- Two states have one RB exactly where its four variables agree. -/
theorem State.ring_eq_iff {s t : State} :
    t.ring = s.ring ↔ t.store = s.store ∧ t.head = s.head ∧ t.tail = s.tail ∧ t.count = s.count := by
  simp [State.ring]

/-- Whether the invariant holds is a matter of RB alone. -/
theorem State.Inv.of_ring_eq {s t : State} (hs : s.Inv) (h : t.ring = s.ring) : t.Inv := by
  obtain ⟨hstore, hhead, htail, hcount⟩ := State.ring_eq_iff.mp h
  simpa [State.Inv, State.cursorsAgree, State.occupiedWritten, State.cell, hstore, hhead, htail, hcount] using hs

/-- An empty buffer with both cursors at 0 meets the invariant, whatever its cells hold (R9, R51). -/
theorem State.Inv.rbReset {s : State} (hs : s.Inv) : s.rbReset.Inv := by
  obtain ⟨hwf, -, -, -⟩ := hs
  exact ⟨hwf, Nat.zero_le _, rfl, fun k hk => absurd hk (Nat.not_lt_zero k)⟩

/-- An append where there is room keeps the invariant: the cell it occupies is the one it writes (R52). -/
theorem State.Inv.append {s : State} (hs : s.Inv) (hf : s.full = false) (b : Byte) : (s.append b).Inv := by
  obtain ⟨hwf, hcount, hagree, hwritten⟩ := hs
  have hcount : s.count.toNat ≤ 128 := hcount
  have hne := s.full_eq_false_iff.mp hf
  have hsucc : (s.append b).count.toNat = s.count.toNat + 1 := count_succ (by omega)
  refine ⟨Memory.wf_write b (cursor_lt s.head) hwf, ?count, s.append_cursorsAgree b hagree (by omega), ?written⟩
  case count =>
    rw [hsucc]
    exact (by omega : s.count.toNat + 1 ≤ 128)
  case written =>
    intro k hk
    change (Memory.lookup (Memory.write s.store s.head.toNat b) (s.cell k)).isSome = true
    rw [Memory.lookup_write]
    split
    · rfl
    · rename_i hcell
      have hlast : k ≠ s.count.toNat := fun e => hcell (by rw [e]; exact hagree.symm)
      exact hwritten k (by omega)

/-- The cells behind the oldest byte, counted from the new `tail` (R53). -/
theorem State.dropOldest_cell (s : State) (k : Nat) : s.dropOldest.cell k = s.cell (k + 1) := by
  change ((advance s.tail).toNat + k) % 128 = (s.tail.toNat + (k + 1)) % 128
  rw [advance_toNat]
  omega

/-- A pop that finds a byte keeps the agreement of the cursors (R13). -/
theorem State.dropOldest_cursorsAgree {s : State} (ha : s.cursorsAgree) (he : s.empty = false) :
    s.dropOldest.cursorsAgree := by
  have hne := s.empty_eq_false_iff.mp he
  have ha : s.head.toNat = (s.tail.toNat + s.count.toNat) % 128 := ha
  change s.head.toNat = ((advance s.tail).toNat + (s.count - 1).toNat) % 128
  rw [count_pred (by omega), advance_toNat]
  omega

/-- A pop that finds a byte keeps the invariant (R53). -/
theorem State.Inv.dropOldest {s : State} (hs : s.Inv) (he : s.empty = false) : s.dropOldest.Inv := by
  obtain ⟨hwf, hcount, hagree, hwritten⟩ := hs
  have hne := s.empty_eq_false_iff.mp he
  have hpred : s.dropOldest.count.toNat = s.count.toNat - 1 := count_pred (by omega)
  refine ⟨hwf, ?count, State.dropOldest_cursorsAgree hagree he, ?written⟩
  case count =>
    rw [hpred]
    exact (Nat.sub_le _ _).trans hcount
  case written =>
    intro k hk
    rw [State.dropOldest_cell]
    exact hwritten (k + 1) (by omega)

/-! ## Operations and steps -/

/-- Every operation keeps the invariant in the state it leaves. -/
theorem Effect.inv {i : Instr} {s t : State} (h : Effect i s t) (hs : s.Inv) : t.Inv := by
  obtain e | ⟨b, -, hf, e⟩ | ⟨-, he, e⟩ | ⟨-, e⟩ := h.ring_cases
  · exact hs.of_ring_eq e
  · exact (hs.append hf b).of_ring_eq e
  · exact (hs.dropOldest he).of_ring_eq e
  · exact hs.rbReset.of_ring_eq e

/-- States that differ only in what is still to be presented have one RB. -/
theorem SameBut.ring_eq {s t : State} (h : SameBut s t) : t.ring = s.ring := by
  obtain ⟨inp, rfl⟩ := h
  rfl

/-- A step keeps the invariant in the state it leaves, a next state or that of a fault. -/
theorem step_keeps_inv {s t : State} (hs : s.Inv) (h : leftBy (step s) = some t) : t.Inv := by
  obtain ⟨u, hu, e⟩ | ⟨r, e⟩ | ⟨w, i, u, hu, -, e⟩ := step_cases s <;> rw [e] at h
  · cases h
    exact hs.of_ring_eq hu.ring_eq
  · cases h
  · exact (effect_of_leftBy h).inv (hs.of_ring_eq hu.ring_eq)

/-! ## The obligations -/

/-- Settles O12: each value by evaluation. -/
theorem powerUpState : Obligations.PowerUpState :=
  ⟨rfl, rfl, rfl, rfl, rfl, rfl, rfl, rfl, rfl, rfl, rfl, rfl, rfl, fun _ => rfl⟩

/-- Settles O13: the buffer is empty after power-up. -/
theorem invariantHoldsAtReset : Obligations.InvariantHoldsAtReset :=
  ⟨reset_store_wf, Nat.zero_le _, rfl, fun k hk => absurd hk (Nat.not_lt_zero k)⟩

/-- Settles O14: `step_keeps_inv` for both outcomes that leave a state. -/
theorem stepKeepsInvariant : Obligations.StepKeepsInvariant := fun _ hs =>
  ⟨fun _ h => step_keeps_inv hs (by rw [h]; rfl), fun _ h => step_keeps_inv hs (by rw [h]; rfl)⟩

/-- Settles O17: SYS.RESET has one outcome. -/
theorem sysResetValues : Obligations.SysResetValues := fun _ => rfl

end Sys2Proof.Machine
end

section
/-! PROOFS. The ring buffer as a queue: single operations, pushes and drains (40_ring_buffer.md, 42_handoff.md). -/

namespace Sys2Proof.Machine

/-! ## Pushes -/

/-- Pushes for which there is room append their bytes to the queue in order (R55). -/
theorem execAll_rbPush_contents (bs : List Byte) {s : State} (ha : s.cursorsAgree)
    (hroom : s.count.toNat + bs.length ≤ 128) :
    ∃ t, execAll (bs.map .rbPush) s = .next t ∧ t.contents = s.contents ++ bs := by
  induction bs generalizing s with
  | nil => exact ⟨s, rfl, (List.append_nil _).symm⟩
  | cons b bs ih =>
    rw [List.length_cons] at hroom
    have hpush := exec_rbPush_of_not_full b (s.full_eq_false_iff.mpr (by omega))
    have hcount : ((s.append b).give (.push true)).count.toNat = s.count.toNat + 1 := count_succ (by omega)
    obtain ⟨t, ht, hq⟩ := ih (s := (s.append b).give (.push true))
      (s.append_cursorsAgree b ha (by omega)) (by omega)
    refine ⟨t, (execAll_cons_of_next hpush _).trans ht, ?_⟩
    calc t.contents = (s.append b).contents ++ bs := hq
      _ = (s.contents ++ [b]) ++ bs := by rw [s.append_contents b ha (by omega)]
      _ = s.contents ++ b :: bs := (List.append_cons _ _ _).symm

/-! ## Drains -/

/-- What a drain with `fuel` pops leaves: `tail` and the count have moved past the bytes returned, and a pop that
reported empty is the last one (R69). -/
theorem drain_state (fuel : Nat) (s : State) :
    ∃ u, (drain fuel s).2 = u ∧ u = { s with tail := u.tail, count := u.count, result := u.result } ∧
      u.count.toNat = s.count.toNat - fuel ∧
      u.tail.toNat = (s.tail.toNat + min fuel s.count.toNat) % 128 ∧
      (s.count.toNat < fuel → u.result = .pop none) := by
  have htail : s.tail.toNat < 128 := cursor_lt s.tail
  induction fuel generalizing s with
  | zero => exact ⟨s, rfl, rfl, rfl, by omega, nofun⟩
  | succ fuel ih =>
    cases he : s.empty with
    | true =>
      have hzero := s.empty_iff.mp he
      have hdrain : (drain (fuel + 1) s).2 = s.give (.pop none) := by simp [drain, exec_rbPop_of_empty he]
      have hstay : s.tail.toNat = (s.tail.toNat + min (fuel + 1) s.count.toNat) % 128 := by omega
      exact ⟨_, hdrain, rfl, by simp [hzero], hstay, fun _ => rfl⟩
    | false =>
      have hne := s.empty_eq_false_iff.mp he
      have hdrain : (drain (fuel + 1) s).2 = (drain fuel (s.dropOldest.give (.pop (some s.oldest)))).2 := by
        simp [drain, exec_rbPop_of_not_empty he]
      have hcount : (s.dropOldest.give (.pop (some s.oldest))).count.toNat = s.count.toNat - 1 :=
        count_pred (by omega)
      have hadv : (s.dropOldest.give (.pop (some s.oldest))).tail.toNat = (s.tail.toNat + 1) % 128 :=
        advance_toNat _
      obtain ⟨u, hu, hframe, hc, ht, hr⟩ := ih (s.dropOldest.give (.pop (some s.oldest))) (by omega)
      exact ⟨u, hdrain.trans hu, hframe, by omega, by omega, fun hlt => hr (by omega)⟩

/-- A drain that is allowed one pop more than there are bytes empties the buffer (R69). -/
theorem drain_all {s : State} (ha : s.cursorsAgree) {fuel : Nat} (h : s.count.toNat < fuel) :
    ∃ t, drain fuel s = (s.contents, t) ∧ t.count.toNat = 0 ∧ t.tail = s.head ∧
      t = { s with tail := t.tail, count := t.count, result := .pop none } := by
  obtain ⟨t, ht, hframe, hc, htail, hr⟩ := drain_state fuel s
  have hbytes : (drain fuel s).1 = s.contents := by
    rw [drain_bytes, List.take_of_length_le (by rw [s.contents_length]; omega)]
  have ha : s.head.toNat = (s.tail.toNat + s.count.toNat) % 128 := ha
  rw [hr h] at hframe
  exact ⟨t, Prod.ext hbytes ht, by omega, BitVec.eq_of_toNat_eq (by omega), hframe⟩

/-- The byte a pop hands back while the invariant holds was written (R9, R13). -/
theorem State.lookup_oldest {s : State} (hs : s.Inv) (he : s.empty = false) :
    Memory.lookup s.store s.tail.toNat = some s.oldest := by
  obtain ⟨-, -, -, hwritten⟩ := hs
  have hne := s.empty_eq_false_iff.mp he
  have hfirst : s.cell 0 = s.tail.toNat := Nat.mod_eq_of_lt (cursor_lt s.tail)
  obtain ⟨v, hv⟩ := Option.isSome_iff_exists.mp (hwritten 0 (by omega))
  rw [hfirst] at hv
  rw [State.oldest, Memory.read, hv]
  rfl

/-! ## The dispatch -/

/-- A dispatch that polls 1 drains and then clears (R70). -/
theorem dispatch_of_ready {s : State} (h : s.ready = true) (fuel : Nat) :
    dispatch fuel s = (some (drain fuel (s.give (.poll true))).1,
      State.give { (drain fuel (s.give (.poll true))).2 with ready := false } .none) := by
  simp [dispatch, exec, execRdyPoll, execRdyClr, h]

/-- A dispatch that polls 0 is that poll (R70). -/
theorem dispatch_of_not_ready {s : State} (h : s.ready = false) (fuel : Nat) :
    dispatch fuel s = (none, { s with result := .poll false }) := by
  simp [dispatch, exec, execRdyPoll, State.give, h]

/-! ## A captured byte and a pop at one instant -/

/-- Where the buffer is neither empty nor full, an append leaves the oldest byte: `head` and `tail` are apart (R13). -/
theorem State.append_oldest {s : State} (ha : s.cursorsAgree) (he : s.empty = false) (hc : s.count.toNat < 128)
    (b : Byte) : (s.append b).oldest = s.oldest := by
  have hne := s.empty_eq_false_iff.mp he
  have ha : s.head.toNat = (s.tail.toNat + s.count.toNat) % 128 := ha
  have htail : s.tail.toNat < 128 := cursor_lt s.tail
  rw [State.oldest, State.append_store, Memory.read_write, State.append_tail, if_neg (by omega), State.oldest]

/-- An append and a drop of the oldest byte come to the same in both orders, but for which byte is the oldest. -/
theorem State.append_dropOldest (s : State) (b : Byte) : (s.append b).dropOldest = s.dropOldest.append b := by
  simp [State.append, State.dropOldest]

/-- The states that a captured byte and a pop pass through in the two orders (R33): `p` and `pc` with the byte first,
`c` and `cp` with the pop first. -/
structure BothOrders (b : Byte) (s p pc c cp : State) : Prop where
  /-- The byte goes first. -/
  capture : exec (.rxData b) s = .next p
  /-- The pop follows it. -/
  thenPop : exec .rbPop p = .next pc
  /-- The pop goes first. -/
  pop : exec .rbPop s = .next c
  /-- The byte follows it. -/
  thenCapture : exec (.rxData b) c = .next cp

section

variable {s : State} (hon : s.rxEnabled = true) (hs : s.started = .receiving)
include hon hs

/-- With the buffer empty a pop that goes first finds no byte, and one that goes second finds the captured one. -/
theorem bothOrders_of_empty (ha : s.cursorsAgree) (he : s.empty = true) (b : Byte) :
    ∃ p pc c cp, BothOrders b s p pc c cp ∧ pc.result = .pop (some b) ∧ pc.count.toNat = 0 ∧
      c.result = .pop none ∧ cp.count.toNat = 1 := by
  have hzero := s.empty_iff.mp he
  have hf : s.full = false := s.full_eq_false_iff.mpr (by omega)
  have hone : (s.append b).count.toNat = 1 := by rw [State.append_count, count_succ (by omega), hzero]
  have hne : ((s.append b).give .none).empty = false :=
    State.empty_eq_false_iff _ |>.mpr (by rw [State.give_count]; omega)
  have htail : s.head = s.tail := (State.head_eq_tail_iff (by omega) ha).mpr (.inl he)
  have hbyte : (s.append b).oldest = b := by
    rw [State.oldest, State.append_store, State.append_tail, Memory.read_write, htail, if_pos rfl]
  have hback : (s.append b).dropOldest.count.toNat = 0 := by
    rw [State.dropOldest_count, count_pred (by omega), hone]
  exact ⟨_, _, _, _,
    ⟨exec_rxData_of_not_full b hon hs hf, exec_rbPop_of_not_empty hne, exec_rbPop_of_empty he,
      exec_rxData_of_not_full (s := s.give (.pop none)) b hon hs hf⟩,
    congrArg (fun v => Result.pop (some v)) hbyte, hback, rfl, hone⟩

/-- With the buffer full a byte that goes first is dropped, and one that goes second takes the place of the popped
one. -/
theorem bothOrders_of_full (hf : s.full = true) (b : Byte) :
    ∃ p pc c cp, BothOrders b s p pc c cp ∧ p.count.toNat = 128 ∧ pc.count.toNat = 127 ∧
      cp.count.toNat = 128 ∧ pc.result = c.result := by
  have hfull := s.full_iff.mp hf
  have he : s.empty = false := s.empty_eq_false_iff.mpr (by omega)
  have hless : s.dropOldest.count.toNat = 127 := by
    rw [State.dropOldest_count, count_pred (by omega), hfull]
  have hroom : (s.dropOldest.give (.pop (some s.oldest))).full = false :=
    State.full_eq_false_iff _ |>.mpr (by rw [State.give_count]; omega)
  have hback : (s.dropOldest.append b).count.toNat = 128 := by
    rw [State.append_count, count_succ (by omega), hless]
  exact ⟨_, _, _, _,
    ⟨exec_rxData_of_full b hon hs hf, exec_rbPop_of_not_empty (s := (s.note _).give _) he,
      exec_rbPop_of_not_empty he, exec_rxData_of_not_full b hon hs hroom⟩,
    hfull, hless, hback, rfl⟩

/-- With bytes in the buffer and room for one more, the two orders come to the same state and the pop to the same
byte. -/
theorem bothOrders_of_room (ha : s.cursorsAgree) (he : s.empty = false) (hf : s.full = false) (b : Byte)
    (hc : s.count.toNat ≤ 128) :
    ∃ p pc c cp, BothOrders b s p pc c cp ∧ pc.result = c.result ∧ cp = { pc with result := .none } := by
  have hne := s.empty_eq_false_iff.mp he
  have hlt := s.full_eq_false_iff.mp hf
  have hmore : (s.append b).count.toNat = s.count.toNat + 1 := count_succ (by omega)
  have hless : s.dropOldest.count.toNat = s.count.toNat - 1 := count_pred (by omega)
  have hsome : ((s.append b).give .none).empty = false :=
    State.empty_eq_false_iff _ |>.mpr (by rw [State.give_count]; omega)
  have hroom : (s.dropOldest.give (.pop (some s.oldest))).full = false :=
    State.full_eq_false_iff _ |>.mpr (by rw [State.give_count]; omega)
  have hsame : (s.dropOldest.append b).give .none = (s.append b).dropOldest.give .none := by
    rw [State.append_dropOldest]
  exact ⟨_, _, _, _,
    ⟨exec_rxData_of_not_full b hon hs hf, exec_rbPop_of_not_empty hsome, exec_rbPop_of_not_empty he,
      exec_rxData_of_not_full b hon hs hroom⟩,
    congrArg (fun v => Result.pop (some v)) (State.append_oldest ha he (by omega) b),
    hsame⟩

end

/-! ## The obligations -/

/-- Settles O18: the next state of a push that finds room. -/
theorem pushStoresAtHead : Obligations.PushStoresAtHead := fun b s hc =>
  ⟨_, exec_rbPush_of_not_full b (s.full_eq_false_iff.mpr (by omega)), rfl, rfl, advance_toNat _,
    count_succ (by omega), rfl⟩

/-- Settles O19: the next state of a pop that finds a byte. -/
theorem popReturnsTheByteAtTail : Obligations.PopReturnsTheByteAtTail := fun s hc =>
  ⟨_, exec_rbPop_of_not_empty (s.empty_eq_false_iff.mpr (by omega)), rfl, advance_toNat _, count_pred hc, rfl⟩

/-- Settles O20: RB.RESET has one outcome. -/
theorem ringResetEmpties : Obligations.RingResetEmpties := fun _ => rfl

/-- Settles O23: `State.append_contents` for a push, `State.contents_of_not_empty` for a pop; an operation that fails
leaves RB. -/
theorem ringRefinesQueue : Obligations.RingRefinesQueue := by
  intro s ⟨_, _, hagree, _⟩
  refine ⟨⟨_, rfl, State.contents_of_count_zero rfl⟩, fun b hc => ?_, fun b hc => ?_, fun hc => ?_,
    fun hc => ?_⟩
  · exact ⟨_, exec_rbPush_of_not_full b (s.full_eq_false_iff.mpr (by omega)), rfl, s.append_contents b hagree hc⟩
  · exact ⟨_, exec_rbPush_of_full b (s.full_iff.mpr hc), rfl, rfl⟩
  · have he := s.empty_eq_false_iff.mpr (by omega)
    exact ⟨_, s.oldest, exec_rbPop_of_not_empty he, rfl, State.contents_of_not_empty he⟩
  · exact ⟨_, exec_rbPop_of_empty (s.empty_iff.mpr hc), rfl, rfl⟩

/-- Settles O24: the pushes fill the queue with the bytes, and the drain returns it. -/
theorem pushesThenPopsKeepOrder : Obligations.PushesThenPopsKeepOrder := by
  intro bs s hlen hempty hcur
  have hagree : s.cursorsAgree := by
    change s.head.toNat = (s.tail.toNat + s.count.toNat) % 128
    rw [hempty, hcur]
    exact (Nat.mod_eq_of_lt (cursor_lt s.tail)).symm
  obtain ⟨t, ht, hq⟩ := execAll_rbPush_contents bs hagree (by omega)
  rw [s.contents_of_count_zero hempty, List.nil_append] at hq
  have hcount : t.count.toNat = bs.length := by rw [← t.contents_length, hq]
  obtain ⟨u, hu, -, hc, -, -⟩ := drain_state bs.length t
  have hbytes : (drain bs.length t).1 = bs := by rw [drain_bytes, hq, List.take_length]
  exact ⟨t, u, ht, Prod.ext hbytes hu, by omega⟩

/-- Settles O27: the one write of an operation by `Effect.store_cases`, read back by `Memory.read_write`. -/
theorem storeFrame : Obligations.StoreFrame := by
  intro i s t h
  obtain ⟨hn, e⟩ | ⟨hs, b, hb, e⟩ := (effect_of_leftBy h).store_cases
  · exact ⟨fun a _ => by rw [e], fun a ha => by simp [hn] at ha⟩
  · refine ⟨fun a ha => ?_, fun a ha => ?_⟩
    · have hne : a ≠ s.head.toNat := fun he => ha (by rw [hs, he])
      rw [e, Memory.read_write, if_neg hne]
    · obtain rfl : s.head.toNat = a := by simpa [hs] using ha
      exact ⟨b, hb, rfl, by rw [e, Memory.read_write, if_pos rfl]⟩

/-- Settles O28: a pop that hands back a byte found the buffer not empty, and the byte is the oldest one. -/
theorem popNeverReadsUnwrittenCell : Obligations.PopNeverReadsUnwrittenCell := by
  intro s t b hs h hr
  cases he : s.empty with
  | true =>
    rw [exec_rbPop_of_empty he] at h
    cases h
    cases hr
  | false =>
    rw [exec_rbPop_of_not_empty he] at h
    cases h
    cases hr
    exact State.lookup_oldest hs he

/-- Settles O42: `drain_all` with one pop more than there are bytes. -/
theorem drainReturnsTheQueue : Obligations.DrainReturnsTheQueue := fun s ⟨_, _, hagree, _⟩ =>
  drain_all hagree (Nat.lt_succ_self s.count.toNat)

/-- Settles O43: the poll decides, and the drain between it and the clear is `drain_all`. -/
theorem dispatchHandsOverTheMessage : Obligations.DispatchHandsOverTheMessage := by
  intro s ⟨_, hcount, hagree, _⟩
  refine ⟨fun hr => ?set, fun hr => dispatch_of_not_ready hr 129⟩
  case set =>
    obtain ⟨t, ht, hzero, -, -⟩ :=
      drain_all (s := s.give (.poll true)) (fuel := 129) hagree (Nat.lt_succ_of_le hcount)
    rw [dispatch_of_ready hr, ht]
    exact ⟨rfl, rfl, hzero⟩

/-- Settles O44: the empty buffer, the full one, and the one with bytes and room. -/
theorem coincidingPushAndPop : Obligations.CoincidingPushAndPop := by
  intro b s ⟨_, hcount, hagree, _⟩ hs hd
  have hon := s.rxEnabled_iff.mpr (.inl hd)
  cases he : s.empty with
  | true =>
    have hzero := s.empty_iff.mp he
    obtain ⟨p, pc, c, cp, ⟨hp, hpc, hc, hcp⟩, hends⟩ := bothOrders_of_empty hon hs hagree he b
    exact ⟨p, pc, c, cp, hp, hpc, hc, hcp, by omega, fun _ => hends, by omega⟩
  | false =>
    have hne := s.empty_eq_false_iff.mp he
    cases hf : s.full with
    | true =>
      have hfull := s.full_iff.mp hf
      obtain ⟨p, pc, c, cp, ⟨hp, hpc, hc, hcp⟩, hends⟩ := bothOrders_of_full hon hs hf b
      exact ⟨p, pc, c, cp, hp, hpc, hc, hcp, by omega, by omega, fun _ => hends⟩
    | false =>
      have hroom := s.full_eq_false_iff.mp hf
      obtain ⟨p, pc, c, cp, ⟨hp, hpc, hc, hcp⟩, hends⟩ := bothOrders_of_room hon hs hagree he hf b hcount
      exact ⟨p, pc, c, cp, hp, hpc, hc, hcp, fun _ _ => hends, by omega, by omega⟩

end Sys2Proof.Machine
end

section
/-! PROOFS. Who writes which variable, and the direction and transmit path (10_state.md, 43_direction.md). -/

namespace Sys2Proof.Machine

/-! ## What any operation does to the receiver's state, to the line and to the input -/

/-- Everything an operation can do to `started` (R15): a start delimiter sets it, an end delimiter and SYS.RESET clear
it. -/
theorem Effect.started_cases {i : Instr} {s t : State} (h : Effect i s t) :
    t.started = s.started ∨ (i = .rxStart ∧ s.rxEnabled = true ∧ t.started = .receiving) ∨
    ((i = .rxEnd ∨ i = .sysReset) ∧ t.started = .idle) := by
  cases i with
  | rxStart =>
    obtain ⟨-, rfl⟩ | ⟨he, -, rfl⟩ | ⟨he, -, rfl⟩ := h
    · exact .inl rfl
    · exact .inr (.inl ⟨rfl, he, rfl⟩)
    · exact .inr (.inl ⟨rfl, he, rfl⟩)
  | rxEnd =>
    obtain ⟨-, rfl⟩ | ⟨-, -, rfl⟩ | ⟨-, -, rfl⟩ := h
    · exact .inl rfl
    · exact .inl rfl
    · exact .inr (.inr ⟨.inl rfl, rfl⟩)
  | sysReset => cases h; exact .inr (.inr ⟨.inr rfl, rfl⟩)
  | rbPush b => obtain ⟨-, rfl⟩ | ⟨-, rfl⟩ := h <;> exact .inl rfl
  | rbPop => obtain ⟨-, rfl⟩ | ⟨-, rfl⟩ := h <;> exact .inl rfl
  | rbReset => cases h; exact .inl rfl
  | rxData b => obtain ⟨-, rfl⟩ | ⟨-, -, rfl⟩ | ⟨-, -, -, rfl⟩ | ⟨-, -, -, rfl⟩ := h <;> exact .inl rfl
  | rdyPoll => cases h; exact .inl rfl
  | rdyClr => cases h; exact .inl rfl
  | dirTx => cases h; exact .inl rfl
  | dirRx => obtain ⟨-, rfl⟩ | ⟨-, rfl⟩ := h <;> exact .inl rfl
  | txByte b => obtain ⟨-, rfl⟩ | ⟨-, -, rfl⟩ | ⟨-, -, rfl⟩ := h <;> exact .inl rfl
  | txDone => obtain ⟨-, rfl⟩ | ⟨-, rfl⟩ := h <;> exact .inl rfl

/-- The variables of the line and the transmit path (R8). -/
structure Line where
  /-- The direction (R17). -/
  dir : Direction
  /-- Whether a byte is in flight (R18). -/
  txBusy : Bool
  /-- The bytes driven (R19). -/
  wireOut : List Byte

/-- The part of the state that is the line and the transmit path. -/
def State.line (s : State) : Line := { dir := s.dir, txBusy := s.txBusy, wireOut := s.wireOut }

/-- Everything an operation can do to the line and the transmit path: switch the direction, take a byte, free the
transmitter, or reset both. -/
theorem Effect.line_cases {i : Instr} {s t : State} (h : Effect i s t) :
    t.line = s.line ∨
    (i = .dirTx ∧ t.line = { s.line with dir := .transmit }) ∨
    (i = .dirRx ∧ t.line = { s.line with dir := .receive }) ∨
    (∃ b, i = .txByte b ∧ s.txBusy = false ∧ t.line = (s.accept b).line) ∨
    (i = .txDone ∧ t.line = { s.line with txBusy := false }) ∨
    (i = .sysReset ∧ t.line = { s.line with dir := .receive, txBusy := false }) := by
  cases i with
  | dirTx => cases h; exact .inr (.inl ⟨rfl, rfl⟩)
  | dirRx => obtain ⟨-, rfl⟩ | ⟨-, rfl⟩ := h <;> exact .inr (.inr (.inl ⟨rfl, rfl⟩))
  | txByte b =>
    obtain ⟨-, rfl⟩ | ⟨-, -, rfl⟩ | ⟨-, hb, rfl⟩ := h
    · exact .inl rfl
    · exact .inl rfl
    · exact .inr (.inr (.inr (.inl ⟨b, rfl, hb, rfl⟩)))
  | txDone =>
    obtain ⟨-, rfl⟩ | ⟨-, rfl⟩ := h
    · exact .inr (.inr (.inr (.inr (.inl ⟨rfl, rfl⟩))))
    · exact .inl rfl
  | sysReset => cases h; exact .inr (.inr (.inr (.inr (.inr ⟨rfl, rfl⟩))))
  | rbPush b => obtain ⟨-, rfl⟩ | ⟨-, rfl⟩ := h <;> exact .inl rfl
  | rbPop => obtain ⟨-, rfl⟩ | ⟨-, rfl⟩ := h <;> exact .inl rfl
  | rbReset => cases h; exact .inl rfl
  | rxStart => obtain ⟨-, rfl⟩ | ⟨-, -, rfl⟩ | ⟨-, -, rfl⟩ := h <;> exact .inl rfl
  | rxEnd => obtain ⟨-, rfl⟩ | ⟨-, -, rfl⟩ | ⟨-, -, rfl⟩ := h <;> exact .inl rfl
  | rxData b => obtain ⟨-, rfl⟩ | ⟨-, -, rfl⟩ | ⟨-, -, -, rfl⟩ | ⟨-, -, -, rfl⟩ := h <;> exact .inl rfl
  | rdyPoll => cases h; exact .inl rfl
  | rdyClr => cases h; exact .inl rfl

/-- Everything an operation can do to the model's own inputs: nothing, or, where TX.BYTE or TX.DONE has no step, go back
to its queue (log 12). The open parameter stays as it is (log 4). -/
theorem Effect.input_cases {i : Instr} {s t : State} (h : Effect i s t) :
    t.rxWhileTx = s.rxWhileTx ∧
      (t.input = s.input ∨ (((∃ b, i = .txByte b) ∨ i = .txDone) ∧ t = s.wait i)) := by
  cases i with
  | txByte b =>
    obtain ⟨-, rfl⟩ | ⟨-, -, rfl⟩ | ⟨-, -, rfl⟩ := h
    · exact ⟨rfl, .inl rfl⟩
    · exact ⟨rfl, .inr ⟨.inl ⟨b, rfl⟩, rfl⟩⟩
    · exact ⟨rfl, .inl rfl⟩
  | txDone =>
    obtain ⟨-, rfl⟩ | ⟨-, rfl⟩ := h
    · exact ⟨rfl, .inl rfl⟩
    · exact ⟨rfl, .inr ⟨.inr rfl, rfl⟩⟩
  | rbPush b => obtain ⟨-, rfl⟩ | ⟨-, rfl⟩ := h <;> exact ⟨rfl, .inl rfl⟩
  | rbPop => obtain ⟨-, rfl⟩ | ⟨-, rfl⟩ := h <;> exact ⟨rfl, .inl rfl⟩
  | rbReset => cases h; exact ⟨rfl, .inl rfl⟩
  | rxStart => obtain ⟨-, rfl⟩ | ⟨-, -, rfl⟩ | ⟨-, -, rfl⟩ := h <;> exact ⟨rfl, .inl rfl⟩
  | rxEnd => obtain ⟨-, rfl⟩ | ⟨-, -, rfl⟩ | ⟨-, -, rfl⟩ := h <;> exact ⟨rfl, .inl rfl⟩
  | rxData b =>
    obtain ⟨-, rfl⟩ | ⟨-, -, rfl⟩ | ⟨-, -, -, rfl⟩ | ⟨-, -, -, rfl⟩ := h <;> exact ⟨rfl, .inl rfl⟩
  | rdyPoll => cases h; exact ⟨rfl, .inl rfl⟩
  | rdyClr => cases h; exact ⟨rfl, .inl rfl⟩
  | dirTx => cases h; exact ⟨rfl, .inl rfl⟩
  | dirRx => obtain ⟨-, rfl⟩ | ⟨-, rfl⟩ := h <;> exact ⟨rfl, .inl rfl⟩
  | sysReset => cases h; exact ⟨rfl, .inl rfl⟩

/-- Only a pop, a push, a captured byte or a reset of RB moves the count (R14). -/
theorem Effect.count_of_ne {i : Instr} {s t : State} (h : Effect i s t) (hne : t.count ≠ s.count) :
    (∃ b, i = .rbPush b ∨ i = .rxData b) ∨ i = .rbPop ∨ i = .rbReset ∨ i = .rxStart ∨ i = .sysReset := by
  obtain e | ⟨b, hi, -, -⟩ | ⟨hi, -, -⟩ | ⟨hi, -⟩ := h.ring_cases
  · exact absurd (congrArg Ring.count e) hne
  · exact .inl ⟨b, hi⟩
  · exact .inr (.inl hi)
  · exact .inr (.inr hi)

/-- Only DIR.TX, DIR.RX and SYS.RESET switch the direction (R17). -/
theorem Effect.dir_of_ne {i : Instr} {s t : State} (h : Effect i s t) (hne : t.dir ≠ s.dir) :
    i = .dirTx ∨ i = .dirRx ∨ i = .sysReset := by
  obtain e | ⟨hi, -⟩ | ⟨hi, -⟩ | ⟨b, -, -, e⟩ | ⟨-, e⟩ | ⟨hi, -⟩ := h.line_cases
  · exact absurd (congrArg Line.dir e) hne
  · exact .inl hi
  · exact .inr (.inl hi)
  · exact absurd (congrArg Line.dir e) hne
  · exact absurd (congrArg Line.dir e) hne
  · exact .inr (.inr hi)

/-- Only TX.BYTE, TX.DONE and SYS.RESET write `tx_busy` (R18), and only TX.BYTE drives the line (R19). -/
theorem Effect.transmit_cases {i : Instr} {s t : State} (h : Effect i s t) :
    (t.txBusy = s.txBusy ∧ t.wireOut = s.wireOut) ∨
    (∃ b, i = .txByte b ∧ s.txBusy = false ∧ t.txBusy = true ∧ t.wireOut = s.wireOut ++ [b]) ∨
    ((i = .txDone ∨ i = .sysReset) ∧ t.txBusy = false ∧ t.wireOut = s.wireOut) := by
  obtain e | ⟨-, e⟩ | ⟨-, e⟩ | ⟨b, hi, hb, e⟩ | ⟨hi, e⟩ | ⟨hi, e⟩ := h.line_cases <;>
    have hbusy := congrArg Line.txBusy e <;> have hwire := congrArg Line.wireOut e
  · exact .inl ⟨hbusy, hwire⟩
  · exact .inl ⟨hbusy, hwire⟩
  · exact .inl ⟨hbusy, hwire⟩
  · exact .inr (.inl ⟨b, hi, hb, hbusy, hwire⟩)
  · exact .inr (.inr ⟨.inl hi, hbusy, hwire⟩)
  · exact .inr (.inr ⟨.inr hi, hbusy, hwire⟩)

/-! ## Exact next states on the transmit path -/

/-- DIR.RX with the transmitter free switches the lines (R75). -/
theorem exec_dirRx_of_free {s : State} (h : s.txBusy = false) :
    exec .dirRx s = .next ((s.setDir .receive).give .none) := by
  simp [exec, execDirRx, h]

/-- A free transmitter takes a byte (R78). -/
theorem exec_txByte_of_free (b : Byte) {s : State} (hd : s.dir = .transmit) (hb : s.txBusy = false) :
    exec (.txByte b) s = .next ((s.accept b).give .none) := by
  simp [exec, execTxByte, hd, hb]

/-- A busy transmitter holds TX.BYTE (R78). -/
theorem exec_txByte_of_busy (b : Byte) {s : State} (hd : s.dir = .transmit) (hb : s.txBusy = true) :
    exec (.txByte b) s = .next (s.wait (.txByte b)) := by
  simp [exec, execTxByte, hd, hb]

/-- In Receive TX.BYTE marks the run (R79). -/
theorem exec_txByte_of_receive (b : Byte) {s : State} (hd : s.dir = .receive) :
    exec (.txByte b) s = .fault (.txWhileReceive (s.markFault .txWhileReceive)) := by
  simp [exec, execTxByte, hd]

/-- TX.DONE frees a busy transmitter (R80). -/
theorem exec_txDone_of_busy {s : State} (h : s.txBusy = true) :
    exec .txDone s = .next (State.give { s with txBusy := false } .none) := by
  simp [exec, execTxDone, h]

/-- With no byte in flight SHIFT waits (R80). -/
theorem exec_txDone_of_free {s : State} (h : s.txBusy = false) : exec .txDone s = .next (s.wait .txDone) := by
  simp [exec, execTxDone, h]

/-- Bytes of a send leave the line one by one (R78, R80). -/
theorem execAll_sendBytes (bytes : List Byte) {s : State} (hd : s.dir = .transmit) (hb : s.txBusy = false)
    (hr : s.result = .none) :
    execAll (bytes.flatMap sendByte) s = .next { s with wireOut := s.wireOut ++ bytes } := by
  induction bytes generalizing s with
  | nil => simp [execAll]
  | cons b bytes ih =>
    have htake := exec_txByte_of_free b hd hb
    have hdone := exec_txDone_of_busy (s := (s.accept b).give .none) rfl
    have hrest := ih (s := { s with wireOut := s.wireOut ++ [b] }) hd hb hr
    have hsame : State.give { (s.accept b).give .none with txBusy := false } .none =
        { s with wireOut := s.wireOut ++ [b] } := by
      rw [← hb, ← hr]
      rfl
    rw [List.flatMap_cons, sendByte, List.cons_append, List.cons_append, List.nil_append,
      execAll_cons_of_next htake, execAll_cons_of_next hdone, hsame, hrest]
    simp

/-! ## Bytes that are not delivered -/

/-- A received byte of any class that is not delivered is no step of FR (R82). -/
theorem exec_rxByte_of_disabled (b : Byte) {s : State} (h : s.rxEnabled = false) :
    exec (rxByte b) s = .next s := by
  obtain ⟨-, e⟩ | ⟨-, e⟩ | ⟨-, -, e⟩ := rxByte_cases b <;> rw [e]
  · simp [exec, execRxStart, State.deliver, h]
  · simp [exec, execRxEnd, State.deliver, h]
  · simp [exec, execRxData, State.deliver, h]

/-- In Transmit and blocked no byte is delivered (R82). -/
theorem State.rxEnabled_of_blocked {s : State} (hd : s.dir = .transmit) (hb : s.rxWhileTx = .blocked) :
    s.rxEnabled = false := by
  simp [State.rxEnabled, hd, hb]

/-- Bytes that are not delivered leave the state as it was, however many (R110). -/
theorem execAll_rxs_of_disabled (bytes : List Byte) {s : State} (h : s.rxEnabled = false) :
    execAll (rxs bytes) s = .next s := by
  induction bytes with
  | nil => rfl
  | cons b bytes ih => rw [rxs, List.map_cons, execAll_cons_of_next (exec_rxByte_of_disabled b h)]; exact ih

/-! ## The transmit discipline -/

/-- What the lines are in the course of a run that keeps P-TXSEQ: outside a send in Receive with the transmitter free,
in a send in Transmit. -/
def State.keepsTxSeq (s : State) (sending : Option (List Byte)) : Prop :=
  match sending with
  | none => s.dir = .receive ∧ s.txBusy = false
  | some _ => s.dir = .transmit

/-- Everything a step of a run that keeps P-TXSEQ can be, and where it leaves the send in progress. -/
theorem pTxSeqFrom_cases {sending : Option (List Byte)} {e : Entry} {run : List Entry}
    (h : pTxSeqFrom sending (e :: run) = true) :
    (e.op = .dirTx ∧ pTxSeqFrom (some []) run = true) ∨
    ((∃ b, e.op = .txByte b) ∧ ∃ bytes bytes', sending = some bytes ∧ pTxSeqFrom (some bytes') run = true) ∨
    (e.op = .dirRx ∧ (sending ≠ none → e.before.txBusy = false) ∧ pTxSeqFrom none run = true) ∨
    (e.op = .sysReset ∧ pTxSeqFrom none run = true) ∨
    (e.op ≠ .dirTx ∧ (∀ b, e.op ≠ .txByte b) ∧ e.op ≠ .dirRx ∧ e.op ≠ .sysReset ∧
      pTxSeqFrom sending run = true) := by
  obtain ⟨s, i⟩ := e
  cases i with
  | dirTx =>
    cases sending with
    | none => exact .inl ⟨rfl, h⟩
    | some bytes => cases h
  | txByte b =>
    obtain ⟨bytes, rfl, -⟩ := pTxSeqFrom_txByte h
    simp only [pTxSeqFrom, Bool.and_eq_true] at h
    exact .inr (.inl ⟨⟨b, rfl⟩, bytes, _, rfl, h.2⟩)
  | dirRx =>
    cases sending with
    | none => exact .inr (.inr (.inl ⟨rfl, fun hne => absurd rfl hne, h⟩))
    | some bytes =>
      simp only [pTxSeqFrom, Bool.and_eq_true, Bool.not_eq_true'] at h
      obtain ⟨⟨hfree, -⟩, hrest⟩ := h
      exact .inr (.inr (.inl ⟨rfl, fun _ => hfree, hrest⟩))
  | sysReset => exact .inr (.inr (.inr (.inl ⟨rfl, h⟩)))
  | _ => exact .inr (.inr (.inr (.inr ⟨nofun, nofun, nofun, nofun, h⟩)))

/-- A step of a run that keeps P-TXSEQ meets no fault, and the lines follow the send in progress. -/
theorem State.keepsTxSeq.step {sending : Option (List Byte)} {i : Instr} {s : State} {run : List Entry}
    (hs : s.keepsTxSeq sending) (h : pTxSeqFrom sending ({ before := s, op := i } :: run) = true) :
    ∃ t sending', exec i s = .next t ∧ t.keepsTxSeq sending' ∧ pTxSeqFrom sending' run = true := by
  obtain ⟨hi, hrun⟩ | ⟨⟨b, hi⟩, bytes, bytes', rfl, hrun⟩ | ⟨hi, hfree, hrun⟩ | ⟨hi, hrun⟩ |
    ⟨htx, hbyte, hrx, hreset, hrun⟩ := pTxSeqFrom_cases h
  · cases hi
    exact ⟨_, some [], rfl, rfl, hrun⟩
  · cases hi
    obtain ⟨t, ht, heff⟩ := exec_next_unless_misuse (.txByte b) s nofun (fun _ _ => hs)
    have hdir : t.dir = s.dir := by
      by_contra hne
      simpa using heff.dir_of_ne hne
    exact ⟨t, some bytes', ht, hdir.trans hs, hrun⟩
  · cases hi
    have hb : s.txBusy = false := by
      cases sending with
      | none => exact hs.2
      | some bytes => exact hfree nofun
    exact ⟨_, none, exec_dirRx_of_free hb, ⟨rfl, hb⟩, hrun⟩
  · cases hi
    exact ⟨_, none, rfl, ⟨rfl, rfl⟩, hrun⟩
  · obtain ⟨t, ht, heff⟩ := exec_next_unless_misuse i s (fun hi => absurd hi hrx) (fun b hi => absurd hi (hbyte b))
    have hdir : t.dir = s.dir := by
      by_contra hne
      obtain hi | hi | hi := heff.dir_of_ne hne
      · exact htx hi
      · exact hrx hi
      · exact hreset hi
    refine ⟨t, sending, ht, ?_, hrun⟩
    cases sending with
    | some bytes => exact hdir.trans hs
    | none =>
      obtain ⟨hrecv, hb⟩ := hs
      refine ⟨hdir.trans hrecv, ?_⟩
      obtain ⟨e, -⟩ | ⟨b, hi, -⟩ | ⟨-, e, -⟩ := heff.transmit_cases
      · exact e.trans hb
      · exact absurd hi (hbyte b)
      · exact e

/-- The steps of a run: the first one, and those of what follows where that one meets no fault. -/
theorem entriesOf_cons (i : Instr) (is : List Instr) (s : State) :
    ∃ run, entriesOf (i :: is) s = { before := s, op := i } :: run ∧
      ∀ t, exec i s = .next t → run = entriesOf is t := by
  rw [entriesOf]
  cases exec i s with
  | next t => exact ⟨_, rfl, fun u hu => by cases hu; rfl⟩
  | fault r => exact ⟨_, rfl, nofun⟩
  | refused r => exact ⟨_, rfl, nofun⟩

/-- A run that keeps P-TXSEQ meets no fault. -/
theorem execAll_of_pTxSeqFrom {ops : List Instr} {sending : Option (List Byte)} {s : State}
    (hs : s.keepsTxSeq sending) (h : pTxSeqFrom sending (entriesOf ops s) = true) :
    ∃ t, execAll ops s = .next t := by
  induction ops generalizing sending s with
  | nil => exact ⟨s, rfl⟩
  | cons i is ih =>
    obtain ⟨run, hrun, hrest⟩ := entriesOf_cons i is s
    rw [hrun] at h
    obtain ⟨u, sending', hu, hkeeps, hprem⟩ := hs.step h
    rw [hrest u hu] at hprem
    rw [execAll_cons_of_next hu]
    exact ih hkeeps hprem

/-! ## The obligations -/

/-- Settles O33: `exec_rxByte_of_disabled`. -/
theorem bytesAreLostWhileTransmitting : Obligations.BytesAreLostWhileTransmitting := fun b _ hd hb =>
  exec_rxByte_of_disabled b (State.rxEnabled_of_blocked hd hb)

/-- Settles O48: the two directions. -/
theorem linesAreMutuallyExclusive : Obligations.LinesAreMutuallyExclusive := by
  intro s
  cases hd : s.dir <;> simp [State.txEn, State.rxEn, Direction.bit, hd]

/-- Settles O49: DIR.TX has one outcome, DIR.RX two, by `tx_busy`. -/
theorem directionOperations : Obligations.DirectionOperations :=
  ⟨fun _ => rfl, fun _ => exec_dirRx_of_free, fun s h => by
    simp [exec, execDirRx, h, State.markFault, State.note, State.give, State.setDir]⟩

/-- Settles O50: the three outcomes of TX.BYTE. -/
theorem transmitByteCases : Obligations.TransmitByteCases := fun b _ =>
  ⟨exec_txByte_of_free b, exec_txByte_of_busy b, exec_txByte_of_receive b⟩

/-- Settles O51: the two outcomes of TX.DONE. -/
theorem transmitDoneCases : Obligations.TransmitDoneCases := fun _ =>
  ⟨exec_txDone_of_busy, exec_txDone_of_free⟩

/-- Settles O53: `Effect.transmit_cases` along the run, which goes on from what each operation leaves. -/
theorem nothingLeavesABusyTransmitter : Obligations.NothingLeavesABusyTransmitter := by
  intro ops s hb hops
  induction ops generalizing s with
  | nil => exact ⟨hb, rfl⟩
  | cons i is ih =>
    obtain ⟨t, ht, heff⟩ := leftBy_exec i s
    obtain ⟨hdone, hreset⟩ := hops i List.mem_cons_self
    obtain ⟨hbusy, hwire⟩ | ⟨b, -, hfree, -⟩ | ⟨hi, -⟩ := heff.transmit_cases
    · obtain ⟨hb', hw'⟩ := ih t (hbusy.trans hb) (fun j hj => hops j (List.mem_cons_of_mem i hj))
      rw [execOn_cons ht]
      exact ⟨hb', hw'.trans hwire⟩
    · rw [hb] at hfree
      cases hfree
    · obtain hi | hi := hi
      · exact absurd hi hdone
      · exact absurd hi hreset

/-- Settles O54: DIR.TX, the framed bytes by `execAll_sendBytes`, DIR.RX with the transmitter free. -/
theorem sendDrivesTheFrame : Obligations.SendDrivesTheFrame := by
  intro p s hb
  have hbytes := execAll_sendBytes (frameBytes p) (s := (s.setDir .transmit).give .none) rfl hb rfl
  have hdir := exec_dirRx_of_free
    (s := { (s.setDir .transmit).give .none with wireOut := s.wireOut ++ frameBytes p }) hb
  rw [send, execAll_cons_of_next rfl, execAll_append_of_next hbytes]
  exact execAll_cons_of_next hdir []

/-- Settles O55: `execAll_of_pTxSeqFrom` from outside a send. -/
theorem transmitDisciplineAvoidsFaults : Obligations.TransmitDisciplineAvoidsFaults := fun _ _ hd hb h =>
  execAll_of_pTxSeqFrom (sending := none) ⟨hd, hb⟩ h

/-- Settles O56: the bytes are lost, and the two changes of direction undo each other. -/
theorem transmittingLeavesTheReceiverAlone : Obligations.TransmittingLeavesTheReceiverAlone := by
  intro bytes s hb hblocked
  have hlost := execAll_rxs_of_disabled bytes (s := (s.setDir .transmit).give .none)
    (State.rxEnabled_of_blocked rfl hblocked)
  rw [execAll_cons_of_next rfl, execAll_append_of_next hlost]
  exact execAll_cons_of_next (exec_dirRx_of_free (s := (s.setDir .transmit).give .none) hb) []

/-- Settles O57: for each variable the operations that write it, from what any operation can do to RB, to the receiver,
to the line and to the input. -/
theorem writersOfEachVariable : Obligations.WritersOfEachVariable := by
  intro i s t h
  have heff := effect_of_leftBy h
  obtain ⟨hparam, hinput⟩ := heff.input_cases
  refine ⟨fun hne => ?store, fun hne => ?head, fun hne => ?tail, heff.count_of_ne, fun hne => ?started,
    fun hne => ?ready, heff.dir_of_ne, fun hne => ?txBusy, fun hne => ?wireOut, fun hne => ?input, hparam⟩
  case store =>
    obtain ⟨-, e⟩ | ⟨-, b, hb, -⟩ := heff.store_cases
    · exact absurd e hne
    · exact ⟨b, hb⟩
  case head =>
    obtain ⟨hi, -⟩ | ⟨hi, -⟩ := heff.head_of_ne hne
    · exact .inl hi
    · exact .inr hi
  case tail =>
    obtain ⟨hi, -⟩ | ⟨hi, -⟩ := heff.tail_of_ne hne
    · exact .inl hi
    · exact .inr hi
  case started =>
    obtain e | ⟨hi, -⟩ | ⟨hi, -⟩ := heff.started_cases
    · exact absurd e hne
    · exact .inl hi
    · exact .inr hi
  case ready =>
    obtain e | ⟨-, hi, -⟩ | ⟨-, hi⟩ := heff.ready_cases
    · exact absurd e hne
    · exact .inl hi
    · exact .inr hi
  case txBusy =>
    obtain ⟨e, -⟩ | ⟨b, hi, -⟩ | ⟨hi, -⟩ := heff.transmit_cases
    · exact absurd e hne
    · exact .inl ⟨b, hi⟩
    · exact .inr hi
  case wireOut =>
    obtain ⟨-, e⟩ | ⟨b, hi, -⟩ | ⟨-, -, e⟩ := heff.transmit_cases
    · exact absurd e hne
    · exact ⟨b, hi⟩
    · exact absurd e hne
  case input =>
    obtain e | ⟨hi, -⟩ := hinput
    · exact absurd e hne
    · exact hi

end Sys2Proof.Machine
end

section
/-! PROOFS. Frames received, announced and handed over (41_frame_receiver.md, 42_handoff.md,
70_reset_and_hazards.md). -/

namespace Sys2Proof.Machine

/-! ## The payload -/

/-- P-PAYLOAD of one payload, by its two conditions (R99). -/
theorem pPayload_iff {p : List Byte} : pPayload p = true ↔ p.length ≤ 128 ∧ p.all isData = true := by
  rw [pPayload, Bool.and_eq_true, decide_eq_true_eq]
  rfl

/-- A frame whose payload keeps P-PAYLOAD announces that payload (R65). -/
theorem execAll_frame_of_pPayload {p : List Byte} (hp : pPayload p = true) {s : State}
    (hd : s.dir = .receive ∨ s.rxWhileTx = .delivered) :
    ∃ t, execAll (frame p) s = .next t ∧ t.HasMessage p := by
  obtain ⟨hlen, hdata⟩ := pPayload_iff.mp hp
  have h := execAll_frame hdata (s.rxEnabled_iff.mpr hd)
  rwa [List.take_of_length_le hlen] at h

/-- The abstract queue is a matter of RB alone. -/
theorem State.contents_of_ring_eq {s t : State} (h : t.ring = s.ring) : t.contents = s.contents := by
  obtain ⟨hstore, -, htail, hcount⟩ := State.ring_eq_iff.mp h
  simp [State.contents, State.cell, hstore, htail, hcount]

/-- Whether the cursors agree is a matter of RB alone. -/
theorem State.cursorsAgree_of_ring_eq {s t : State} (hs : s.cursorsAgree) (h : t.ring = s.ring) :
    t.cursorsAgree := by
  obtain ⟨-, hhead, htail, hcount⟩ := State.ring_eq_iff.mp h
  simpa [State.cursorsAgree, hhead, htail, hcount] using hs

/-- Every operation keeps the agreement of the cursors while the count is legal (R13). -/
theorem Effect.cursorsAgree {i : Instr} {s t : State} (h : Effect i s t) (hs : s.cursorsAgree)
    (hc : s.count.toNat ≤ 128) : t.cursorsAgree := by
  obtain e | ⟨b, -, hf, e⟩ | ⟨-, he, e⟩ | ⟨-, e⟩ := h.ring_cases
  · exact State.cursorsAgree_of_ring_eq hs e
  · have hne := s.full_eq_false_iff.mp hf
    exact State.cursorsAgree_of_ring_eq (s.append_cursorsAgree b hs (by omega)) e
  · exact State.cursorsAgree_of_ring_eq (State.dropOldest_cursorsAgree hs he) e
  · exact State.cursorsAgree_of_ring_eq (s := s.rbReset) rfl e

/-! ## Where a frame lies in the store -/

/-- RB is filled from cell 0 on (D1). -/
structure State.FilledFromZero (s : State) : Prop where
  /-- The oldest byte is in cell 0 (R11). -/
  tail : s.tail = 0
  /-- The count is legal (R14). -/
  count_le : s.count.toNat ≤ 128
  /-- The cursors agree with the count (R13). -/
  agree : s.cursorsAgree

/-- The bytes of a queue that lies from cell 0 on are in the cells of their positions. -/
theorem State.FilledFromZero.read {s : State} (h : s.FilledFromZero) {k : Nat} {b : Byte}
    (hb : s.contents[k]? = some b) : Memory.read s.store k = b := by
  obtain ⟨hk, hb⟩ := List.getElem?_eq_some_iff.mp hb
  rw [s.contents_length] at hk
  have hcell : s.cell k = k := by
    have hle := h.count_le
    rw [State.cell, h.tail]
    change (0 + k) % 128 = k
    omega
  simpa [State.contents, hcell] using hb

/-- A received byte is never a pop. -/
theorem rxByte_ne_rbPop (b : Byte) : rxByte b ≠ .rbPop := by
  obtain ⟨-, e⟩ | ⟨-, e⟩ | ⟨-, -, e⟩ := rxByte_cases b <;> rw [e] <;> nofun

/-- A received byte keeps RB filled from cell 0 on: only a pop moves `tail` away. -/
theorem State.FilledFromZero.received {s t : State} {b : Byte} (hs : s.FilledFromZero)
    (h : Effect (rxByte b) s t) : t.FilledFromZero := by
  refine ⟨?_, h.count_le hs.count_le, h.cursorsAgree hs.agree hs.count_le⟩
  by_contra hne
  obtain ⟨hi, -⟩ | ⟨-, e⟩ := h.tail_of_ne (fun e => hne (e.trans hs.tail))
  · exact rxByte_ne_rbPop b hi
  · exact hne e

/-- Received bytes keep RB filled from cell 0 on. -/
theorem State.FilledFromZero.execAll_rxs {s t : State} (hs : s.FilledFromZero) {bytes : List Byte}
    (h : execAll (rxs bytes) s = .next t) : t.FilledFromZero := by
  obtain ⟨t', ht', hfilled⟩ : ∃ t', execAll (rxs bytes) s = .next t' ∧ t'.FilledFromZero := by
    refine execAll_keeps (P := State.FilledFromZero) (fun i hi u hu => ?_) hs
    obtain ⟨b, -, rfl⟩ := List.mem_map.mp hi
    obtain ⟨v, hv, heff⟩ := exec_rxByte_next b u
    exact ⟨v, hv, hu.received heff⟩
  rw [h] at ht'
  cases ht'
  exact hfilled

/-- A frame that was received lies in the store from cell 0 on, since its start delimiter resets RB (R59, D1). -/
theorem filledFromZero_of_frame {p : List Byte} {s t : State} (he : s.rxEnabled = true)
    (h : execAll (frame p) s = .next t) : t.FilledFromZero := by
  have hstart : (s.startFrame.give .none).FilledFromZero := by
    rw [s.startFrame_eq]
    exact ⟨rfl, Nat.zero_le 128, rfl⟩
  have hrest : execAll (rxs (p ++ [Config.endByte])) (s.startFrame.give .none) = .next t :=
    (execAll_cons_of_next (exec_rxStart_of_enabled he) _).symm.trans h
  exact hstart.execAll_rxs hrest

/-! ## Other operations between the bytes of a frame -/

/-- The operation is one of those that may fall between the bytes of a frame without a part in it. -/
def isBystander (i : Instr) : Prop := i = .rdyPoll ∨ i = .rdyClr ∨ i = .txDone

/-- Such an operation completes, and leaves RB and the receiver as they were. -/
theorem exec_of_isBystander {i : Instr} (h : isBystander i) (s : State) :
    ∃ t, exec i s = .next t ∧ t.ring = s.ring ∧ t.started = s.started ∧ t.rxEnabled = s.rxEnabled := by
  obtain rfl | rfl | rfl := h
  · exact ⟨_, rfl, rfl, rfl, rfl⟩
  · exact ⟨_, rfl, rfl, rfl, rfl⟩
  · cases hb : s.txBusy with
    | true => exact ⟨_, exec_txDone_of_busy hb, rfl, rfl, rfl⟩
    | false => exact ⟨_, exec_txDone_of_free hb, rfl, rfl, rfl⟩

/-- A received byte is PROD's. -/
theorem issuer_rxByte (b : Byte) : issuer (rxByte b) = .prod := by
  obtain ⟨-, e⟩ | ⟨-, e⟩ | ⟨-, -, e⟩ := rxByte_cases b <;> rw [e] <;> rfl

/-- The bytes of a frame received so far: none yet, or the start delimiter and the payload bytes after it. -/
def State.HasHeard (s : State) : List Byte → Prop
  | [] => s.rxEnabled = true
  | b :: p => b = Config.startByte ∧ s.Capturing p

/-- What was heard so far does not depend on what else the state holds. -/
theorem State.HasHeard.of_ring_eq {s t : State} {bytes : List Byte} (hs : s.HasHeard bytes)
    (hring : t.ring = s.ring) (hstarted : t.started = s.started) (hon : t.rxEnabled = s.rxEnabled) :
    t.HasHeard bytes := by
  cases bytes with
  | nil => exact hon.trans hs
  | cons b p =>
    obtain ⟨hb, hcap⟩ := hs
    exact ⟨hb, hon.trans hcap.enabled, hstarted.trans hcap.receiving,
      State.cursorsAgree_of_ring_eq hcap.agree hring, (State.contents_of_ring_eq hring).trans hcap.held⟩

/-- The next byte of a frame is heard. -/
theorem State.HasHeard.exec_rxByte {s : State} {heard rest p : List Byte} {b : Byte} (hs : s.HasHeard heard)
    (hframe : heard ++ b :: rest = Config.startByte :: p) (hp : p.all isData = true) :
    ∃ t, exec (rxByte b) s = .next t ∧ t.HasHeard (heard ++ [b]) := by
  cases heard with
  | nil =>
    cases hframe
    obtain ⟨t, ht, hcap⟩ := exec_rxStart_captures hs
    exact ⟨t, ht, rfl, hcap⟩
  | cons c q =>
    obtain ⟨hc, hcap⟩ := hs
    have hmem : b ∈ p := by
      rw [← (List.cons.inj hframe).2]
      simp
    obtain ⟨hstart, hend⟩ := isData_iff.mp (List.all_eq_true.mp hp b hmem)
    obtain ⟨t, ht, hmore⟩ := hcap.exec_rxData b
    rw [rxByte_of_data hstart hend]
    exact ⟨t, ht, hc, hmore⟩

/-- The bytes of a frame are heard one after the other whatever bystanders fall between them. -/
theorem execAll_hasHeard {ops : List Instr} {s : State} {heard todo p : List Byte} (hs : s.HasHeard heard)
    (hops : ∀ i ∈ ops, (∃ b, i = rxByte b) ∨ isBystander i)
    (htodo : ops.filter (fun i => issuer i == .prod) = rxs todo)
    (hframe : heard ++ todo = Config.startByte :: p) (hp : p.all isData = true) :
    ∃ t, execAll ops s = .next t ∧ t.HasHeard (heard ++ todo) := by
  induction ops generalizing s heard todo with
  | nil =>
    obtain rfl : todo = [] := List.map_eq_nil_iff.mp htodo.symm
    exact ⟨s, rfl, by rwa [List.append_nil]⟩
  | cons i is ih =>
    have his : ∀ j ∈ is, (∃ b, j = rxByte b) ∨ isBystander j := fun j hj => hops j (List.mem_cons_of_mem i hj)
    by_cases hi : issuer i = .prod
    · rw [List.filter_cons_of_pos (by simpa using hi)] at htodo
      cases todo with
      | nil => cases htodo
      | cons b rest =>
        obtain ⟨rfl, hrest⟩ := List.cons.inj htodo
        obtain ⟨u, hu, hheard⟩ := hs.exec_rxByte hframe hp
        rw [List.append_cons] at hframe ⊢
        rw [execAll_cons_of_next hu]
        exact ih hheard his hrest hframe
    · rw [List.filter_cons_of_neg (by simpa using hi)] at htodo
      obtain ⟨b, rfl⟩ | hby := hops i List.mem_cons_self
      · exact absurd (issuer_rxByte b) hi
      · obtain ⟨u, hu, hring, hstarted, hon⟩ := exec_of_isBystander hby s
        rw [execAll_cons_of_next hu]
        exact ih (hs.of_ring_eq hring hstarted hon) his htodo hframe

/-! ## A message announced while the line is quiet -/

/-- Under P-QUIET, with a frame handed over, no byte takes hold of RB, and no other operation than a clear or a reset
ends that. -/
theorem pQuietFrom_some {ph : DispatchPhase} {e : Entry} {run : List Entry}
    (h : pQuietFrom (some ph) (e :: run) = true) (hclr : e.op ≠ .rdyClr) (hreset : e.op ≠ .sysReset) :
    e.takesBuffer = false ∧ ∃ ph', pQuietFrom (some ph') run = true := by
  simp only [pQuietFrom, Option.isSome_some, Bool.true_and, Bool.and_eq_true, Bool.not_eq_true'] at h
  obtain ⟨hquiet, hrun⟩ := h
  refine ⟨hquiet, ?_⟩
  cases hw : handOverAfter (some ph) e with
  | some ph' => exact ⟨ph', hw ▸ hrun⟩
  | none =>
    obtain ⟨hi, -⟩ | hi := handOverAfter_closes hw
    · exact absurd hi hclr
    · exact absurd hi hreset

/-- The operation does not touch a message that was handed over, as long as the line is quiet. -/
def isQuiet (i : Instr) : Prop := issuer i ≠ .test ∧ i ≠ .rbPop ∧ i ≠ .rdyClr ∧ i ≠ .sysReset

/-- Outside delimiters an operation that neither takes hold of RB nor pops, clears or resets leaves FR, RB and
`ready` as they were. -/
theorem Effect.quiet {i : Instr} {s t : State} (h : Effect i s t) (hi : isQuiet i) (hs : s.started = .idle)
    (htakes : Entry.takesBuffer { before := s, op := i } = false) :
    t.started = .idle ∧ t.ready = s.ready ∧ t.ring = s.ring := by
  obtain ⟨htest, hpop, hclr, hreset⟩ := hi
  refine ⟨?started, ?ready, ?ring⟩
  case started =>
    obtain e | ⟨rfl, hon, -⟩ | ⟨-, e⟩ := h.started_cases
    · exact e.trans hs
    · simp [Entry.takesBuffer, hon] at htakes
    · exact e
  case ready =>
    obtain e | ⟨-, -, hrecv⟩ | ⟨-, hi⟩ := h.ready_cases
    · exact e
    · rw [hs] at hrecv
      cases hrecv
    · obtain hi | hi := hi
      · exact absurd hi hclr
      · exact absurd hi hreset
  case ring =>
    obtain e | ⟨b, rfl | rfl, -, -⟩ | ⟨hi, -, -⟩ | ⟨rfl | rfl | rfl, -⟩ := h.ring_cases
    · exact e
    · exact absurd rfl htest
    · obtain ⟨-, rfl⟩ | ⟨-, -, rfl⟩ | ⟨-, hrecv, -⟩ | ⟨-, hrecv, -⟩ := h
      · rfl
      · rfl
      · simp [hs] at hrecv
      · simp [hs] at hrecv
    · exact absurd hi hpop
    · exact absurd rfl htest
    · obtain ⟨-, rfl⟩ | ⟨hon, -⟩ | ⟨hon, -⟩ := h
      · rfl
      · simp [Entry.takesBuffer, hon] at htakes
      · simp [Entry.takesBuffer, hon] at htakes
    · exact absurd rfl hreset

/-! ## What FR does not read -/

/-- A received byte leaves the state its effect allows. -/
theorem exec_rxByte_of_effect {b : Byte} {s t : State} (h : Effect (rxByte b) s t) :
    exec (rxByte b) s = .next t := by
  obtain ⟨u, hu, heff⟩ := exec_rxByte_next b s
  rw [hu, heff.unique h]

/-- With another `ready` and another store a received byte takes the same branch: no guard reads either (R66). -/
theorem Effect.received_with {b : Byte} {s t : State} (h : Effect (rxByte b) s t) (r : Bool) (m : Memory) :
    Effect (rxByte b) { s with ready := r, store := m }
      { t with
        ready := if rxByte b = .rxEnd ∧ s.rxEnabled = true ∧ s.started = .receiving then true else r
        store := if (storedCell (rxByte b) s).isSome then Memory.write m s.head.toNat b else m } := by
  obtain ⟨-, e⟩ | ⟨-, e⟩ | ⟨-, -, e⟩ := rxByte_cases b <;> rw [e] at h ⊢
  · obtain ⟨he, rfl⟩ | ⟨he, hs, rfl⟩ | ⟨he, hs, rfl⟩ := h
    · exact .inl ⟨he, rfl⟩
    · exact .inr (.inl ⟨he, hs, rfl⟩)
    · exact .inr (.inr ⟨he, hs, rfl⟩)
  · obtain ⟨he, rfl⟩ | ⟨he, hs, rfl⟩ | ⟨he, hs, rfl⟩ := h
    · exact .inl ⟨he, by simp [he, storedCell]⟩
    · exact .inr (.inl ⟨he, hs, by simp [hs, storedCell, State.give, State.note]⟩)
    · exact .inr (.inr ⟨he, hs, by simp [he, hs, storedCell, State.give]⟩)
  · obtain ⟨he, rfl⟩ | ⟨he, hs, rfl⟩ | ⟨he, hs, hf, rfl⟩ | ⟨he, hs, hf, rfl⟩ := h
    · exact .inl ⟨he, by simp [he, storedCell]⟩
    · exact .inr (.inl ⟨he, hs, by simp [hs, storedCell, State.give]⟩)
    · exact .inr (.inr (.inl ⟨he, hs, hf, by simp [hf, storedCell, State.give, State.note]⟩))
    · exact .inr (.inr (.inr ⟨he, hs, hf, by simp [he, hs, hf, storedCell, State.give, State.append]⟩))

/-- FR never clears `ready`, moves `tail` only to 0, never touches `dir`, and tells nobody anything (R61, R66). -/
theorem Effect.received_frame {b : Byte} {s t : State} (h : Effect (rxByte b) s t) :
    (s.ready = true → t.ready = true) ∧ (t.tail = s.tail ∨ t.tail = 0) ∧ t.dir = s.dir ∧
      (t.result = .none ∨ t = s) := by
  obtain ⟨-, e⟩ | ⟨-, e⟩ | ⟨-, -, e⟩ := rxByte_cases b <;> rw [e] at h
  · obtain ⟨-, rfl⟩ | ⟨-, -, rfl⟩ | ⟨-, -, rfl⟩ := h
    · exact ⟨id, .inl rfl, rfl, .inr rfl⟩
    · exact ⟨id, .inr rfl, rfl, .inl rfl⟩
    · exact ⟨id, .inr rfl, rfl, .inl rfl⟩
  · obtain ⟨-, rfl⟩ | ⟨-, -, rfl⟩ | ⟨-, -, rfl⟩ := h
    · exact ⟨id, .inl rfl, rfl, .inr rfl⟩
    · exact ⟨id, .inl rfl, rfl, .inl rfl⟩
    · exact ⟨fun _ => rfl, .inl rfl, rfl, .inl rfl⟩
  · obtain ⟨-, rfl⟩ | ⟨-, -, rfl⟩ | ⟨-, -, -, rfl⟩ | ⟨-, -, -, rfl⟩ := h
    · exact ⟨id, .inl rfl, rfl, .inr rfl⟩
    · exact ⟨id, .inl rfl, rfl, .inl rfl⟩
    · exact ⟨id, .inl rfl, rfl, .inl rfl⟩
    · exact ⟨id, .inl rfl, rfl, .inl rfl⟩

/-! ## The obligations -/

/-- Settles O35: the message by `execAll_frame_of_pPayload`, its place by `filledFromZero_of_frame`. -/
theorem frameRoundTrip : Obligations.FrameRoundTrip := by
  intro p s hp hd
  obtain ⟨hlen, -⟩ := pPayload_iff.mp hp
  obtain ⟨t, ht, hmsg⟩ := execAll_frame_of_pPayload hp hd
  have hfilled := filledFromZero_of_frame (s.rxEnabled_iff.mpr hd) ht
  have hcount : t.count.toNat = p.length := by rw [← t.contents_length, hmsg.held]
  have hhead : t.head.toNat = p.length % 128 := by
    have hagree : t.head.toNat = (t.tail.toNat + t.count.toNat) % 128 := hfilled.agree
    rw [hagree, hfilled.tail, hcount]
    simp
  refine ⟨t, ht, hmsg.idle, hmsg.ready, hcount, hfilled.tail, hhead, fun k b hb => ?_, ?_⟩
  · exact hfilled.read (hmsg.held ▸ hb)
  · rw [drain_bytes, hmsg.held, List.take_of_length_le (Nat.le_succ _)]

/-- Settles O36: the bytes are heard by `execAll_hasHeard`, the end delimiter announces them, and the poll sees it. -/
theorem readyPublishesTheWholeFrame : Obligations.ReadyPublishesTheWholeFrame := by
  intro p ops s hp hd hops hfilter
  obtain ⟨hlen, hdata⟩ := pPayload_iff.mp hp
  have hon : s.HasHeard [] := s.rxEnabled_iff.mpr hd
  obtain ⟨u, hu, -, hcap⟩ := execAll_hasHeard hon hops hfilter rfl hdata
  obtain ⟨v, hv, hmsg⟩ := hcap.exec_rxEnd
  refine ⟨v.give (.poll v.ready), ?_, congrArg Result.poll hmsg.ready, ?_⟩
  · rw [execAll_append_of_next hu, execAll_cons_of_next hv]
    rfl
  · exact hmsg.held.trans (List.take_of_length_le hlen)

/-- Settles O39: the labels entered by the three receive operations; the two others that enter one end in a fault. -/
theorem silentErrorsAreLogged : Obligations.SilentErrorsAreLogged := by
  intro i s t h
  have heff := effect_of_leftBy (leftBy_of_next h)
  cases i with
  | rxStart =>
    obtain ⟨he, rfl⟩ | ⟨-, hs, rfl⟩ | ⟨he, hs, rfl⟩ := heff
    · simp [he]
    · simp [hs]
    · simp [he, hs]
  | rxEnd =>
    obtain ⟨he, rfl⟩ | ⟨he, hs, rfl⟩ | ⟨-, hs, rfl⟩ := heff
    · simp [he]
    · simp [he, hs]
    · simp [hs]
  | rxData b =>
    obtain ⟨he, rfl⟩ | ⟨-, hs, rfl⟩ | ⟨he, hs, hf, rfl⟩ | ⟨-, -, hf, rfl⟩ := heff
    · simp [he]
    · simp [hs]
    · simp [he, hs, hf]
    · simp [hf]
  | dirRx =>
    obtain ⟨-, rfl⟩ | ⟨hb, -⟩ := heff
    · simp
    · simp [exec, execDirRx, hb] at h
  | txByte b =>
    obtain ⟨hd, -⟩ | ⟨-, -, rfl⟩ | ⟨-, -, rfl⟩ := heff
    · rw [exec_txByte_of_receive b hd] at h
      cases h
    · simp [State.wait]
    · simp
  | rbPush b => obtain ⟨-, rfl⟩ | ⟨-, rfl⟩ := heff <;> simp
  | rbPop => obtain ⟨-, rfl⟩ | ⟨-, rfl⟩ := heff <;> simp
  | txDone => obtain ⟨-, rfl⟩ | ⟨-, rfl⟩ := heff <;> simp [State.wait]
  | rbReset => cases heff; simp
  | rdyPoll => cases heff; simp
  | rdyClr => cases heff; simp
  | dirTx => cases heff; simp
  | sysReset => cases heff; simp

/-- Settles O41: both operations have one outcome. -/
theorem pollAndClear : Obligations.PollAndClear := fun _ => ⟨rfl, rfl⟩

/-- Settles O45: the frame announces its payload, the clear takes the announcement back and leaves the payload. -/
theorem frameBeforeClearIsUnannounced : Obligations.FrameBeforeClearIsUnannounced := by
  intro p s hp hd
  obtain ⟨t, ht, hmsg⟩ := execAll_frame_of_pPayload hp hd
  refine ⟨(State.give { t with ready := false } .none).give (.poll false), ?_, rfl, hmsg.held⟩
  rw [execAll_append_of_next ht]
  rfl

/-- Settles O46: a drain does not touch FR, so the start delimiter that follows it begins a frame. -/
theorem newFrameDuringDrain : Obligations.NewFrameDuringDrain := by
  intro k v s _ _ hlen hv hd
  obtain ⟨t, ht, hframe, -⟩ := drain_state k s
  have hon : t.rxEnabled = true := by
    rw [hframe]
    exact s.rxEnabled_iff.mpr hd
  obtain ⟨m, hm, hempty⟩ := exec_rxStart_captures hon
  obtain ⟨u, hu, hcap⟩ := hempty.execAll_rxs hv
  refine ⟨t, u, Prod.ext (drain_bytes k s) ht, (execAll_cons_of_next hm _).trans hu, ?_⟩
  rw [drain_bytes, hcap.held, List.take_take, List.nil_append]
  exact List.take_of_length_le hlen

/-- Settles O47: `Effect.quiet` along the run, the premise going on by `pQuietFrom_some`. -/
theorem quietLineKeepsThePayload : Obligations.QuietLineKeepsThePayload := by
  intro ops ph s t hs hr hquiet hops h
  induction ops generalizing ph s with
  | nil => cases h; exact ⟨rfl, hr⟩
  | cons i is ih =>
    obtain ⟨run, hrun, hrest⟩ := entriesOf_cons i is s
    rw [hrun] at hquiet
    obtain ⟨-, -, hclr, hreset⟩ := hops i List.mem_cons_self
    obtain ⟨htakes, ph', hquiet'⟩ := pQuietFrom_some hquiet hclr hreset
    cases e : exec i s with
    | next u =>
      have heff := effect_of_leftBy (leftBy_of_next e)
      obtain ⟨hidle, hready, hring⟩ := heff.quiet (hops i List.mem_cons_self) hs htakes
      rw [hrest u e] at hquiet'
      rw [execAll_cons_of_next e] at h
      obtain ⟨hq, hset⟩ :=
        ih ph' u hidle (hready.trans hr) hquiet' (fun j hj => hops j (List.mem_cons_of_mem i hj)) h
      exact ⟨hq.trans (State.contents_of_ring_eq hring), hset⟩
    | fault r => simp [execAll, e] at h
    | refused r => simp [execAll, e] at h

/-- Settles O58: the same effect by `Effect.received_with`, what FR leaves alone by `Effect.received_frame`. -/
theorem receiverIgnoresReadyAndStore : Obligations.ReceiverIgnoresReadyAndStore := by
  intro b r m s
  obtain ⟨t, ht, heff⟩ := exec_rxByte_next b s
  exact ⟨t, ht, exec_rxByte_of_effect (heff.received_with r m), heff.received_frame⟩

end Sys2Proof.Machine
end

section
/-! PROOFS. Steps: the agents' turns, the placing of a word, ownership, and a reset at an instant (20_memory.md,
70_reset_and_hazards.md). -/

namespace Sys2Proof.Machine

/-! ## One turn -/

/-- An agent that has nothing to present passes (log 11). -/
theorem State.turn_of_nil {s : State} {a : Agent} (hq : s.input.queue a = []) : s.turn a = .next s := by
  simp [State.turn, hq]

section

variable {s : State} {a : Agent} {w : Cmd} {q : List Cmd} (hq : s.input.queue a = w :: q)
include hq

/-- A word of the agent's own is executed (R32). -/
theorem State.turn_of_own {i : Instr} (hd : decode w = .ok i) (hi : issuer i = a) :
    s.turn a = exec i (s.setQueue a q) := by
  simp [State.turn, hq, hd, hi]

/-- A reserved word is refused by its code (R46). -/
theorem State.turn_of_reserved {op : BitVec 4} (hd : decode w = .error (.reservedOp op)) :
    s.turn a = .refused (.reservedOp op) := by
  simp [State.turn, hq, hd]

/-- A word of another agent is refused by agent and operation (R24). -/
theorem State.turn_of_foreign {i : Instr} (hd : decode w = .ok i) (hi : issuer i ≠ a) :
    s.turn a = .refused (.foreignPort a i) := by
  simp [State.turn, hq, hd, hi]

end

/-! ## One step -/

/-- Without a reset at the instant the first agent moves (R33). -/
theorem step_eq_turn {s : State} {a : Agent} {as : List Agent} {rest : List (List Agent)}
    (h : s.input.schedule = (a :: as) :: rest) (hr : s.resetPresented (a :: as) = false) :
    step s = (s.setSchedule (pushInstant as rest)).turn a := by
  simp [step, h, State.instant, hr]

/-- With a reset at the instant RST moves, and what the others present is taken away (R97). -/
theorem step_eq_reset {s : State} {now : List Agent} {rest : List (List Agent)}
    (h : s.input.schedule = now :: rest) (hr : s.resetPresented now = true) :
    step s = (now.foldl State.override (s.setSchedule rest)).turn .rst := by
  simp [step, h, State.instant, hr]

/-- An agent alone at an instant moves, RST too (R33). -/
theorem step_of_alone {s : State} {a : Agent} {rest : List (List Agent)} (h : s.input.schedule = [a] :: rest) :
    step s = (s.setSchedule rest).turn a := by
  cases hr : s.resetPresented [a] with
  | false => exact step_eq_turn h hr
  | true =>
    obtain ⟨hrst, -⟩ := Bool.and_eq_true_iff.mp hr
    obtain rfl : Agent.rst = a := by simpa using hrst
    exact step_eq_reset h hr

/-- An agent alone at an instant with a word of its own executes it. -/
theorem step_of_alone_own {s : State} {a : Agent} {rest : List (List Agent)} {w : Cmd} {q : List Cmd} {i : Instr}
    (h : s.input.schedule = [a] :: rest) (hq : s.input.queue a = w :: q) (hd : decode w = .ok i)
    (hi : issuer i = a) : step s = exec i ((s.setSchedule rest).setQueue a q) := by
  rw [step_of_alone h]
  exact State.turn_of_own (by simpa using hq) hd hi

/-! ## Placing a word -/

/-- What is read from a row of the table is read from a command word. -/
theorem decodeTableWord_some {nbits w : Nat} {i : Instr} (h : decodeTableWord nbits w = some i) :
    ∃ cmd, wordOfNat nbits w = some cmd ∧ decode cmd = .ok i := by
  unfold decodeTableWord at h
  cases hw : wordOfNat nbits w with
  | none => simp [hw] at h
  | some cmd =>
    cases hd : decode cmd with
    | ok j => exact ⟨cmd, rfl, by simpa [hw, hd] using h⟩
    | error e => simp [hw, hd] at h

/-- A word placed next is executed by the next step, in the state it was placed in (log 11). -/
theorem step_presentNext {cmd : Cmd} {i : Instr} (hd : decode cmd = .ok i) (s : State) :
    step (s.presentNext cmd) = exec i s := by
  have hp : presenter cmd = issuer i := by simp [presenter, hd]
  have hq : (s.presentNext cmd).input.queue (issuer i) = cmd :: s.input.queue (issuer i) := by
    simp [State.presentNext, hp]
  have hback : ((s.presentNext cmd).setSchedule s.input.schedule).setQueue (issuer i) (s.input.queue (issuer i)) =
      s := by
    rw [State.presentNext, hp]
    cases issuer i <;> rfl
  rw [step_of_alone_own (rest := s.input.schedule) (by rw [← hp]; rfl) hq hd rfl, hback]

/-! ## Ownership of the input -/

/-- Taking words away keeps ownership (R24). -/
theorem State.inputOwned.setQueue {s : State} (hs : s.inputOwned) {a : Agent} {q : List Cmd}
    (hq : ∀ w ∈ q, ∃ i, decode w = .ok i ∧ issuer i = a) : (s.setQueue a q).inputOwned := by
  intro b w hw
  by_cases hb : b = a
  · subst hb
    rw [State.setQueue_input, Input.queue_setQueue_self] at hw
    exact hq w hw
  · rw [State.setQueue_input, Input.queue_setQueue_other _ q hb] at hw
    exact hs b w hw

/-- Ownership does not depend on the schedule. -/
theorem State.inputOwned.setSchedule {s : State} (hs : s.inputOwned) (l : List (List Agent)) :
    (s.setSchedule l).inputOwned := fun a w hw => hs a w (by simpa using hw)

/-- What a reset takes away keeps ownership. -/
theorem State.inputOwned.foldl_override {s : State} (hs : s.inputOwned) (now : List Agent) :
    (now.foldl State.override s).inputOwned := by
  induction now generalizing s with
  | nil => exact hs
  | cons a as ih =>
    refine ih ?_
    unfold State.override
    split
    · exact hs
    · exact hs.setQueue fun w hw => hs a w (List.mem_of_mem_tail hw)

/-- An operation that an encoding exists for keeps ownership: what goes back to a queue is its own agent's. -/
theorem Effect.inputOwned {i : Instr} {s t : State} (h : Effect i s t) (hi : i.wf = true) (hs : s.inputOwned) :
    t.inputOwned := by
  obtain ⟨-, e | ⟨-, rfl⟩⟩ := h.input_cases
  · intro a w hw
    rw [e] at hw
    exact hs a w hw
  · refine hs.setQueue fun w hw => ?_
    obtain rfl | hw := List.mem_cons.mp hw
    · exact ⟨i, decode_encode hi, rfl⟩
    · exact hs _ w hw

/-- A turn of an agent with only operations of its own is not refused, and ownership stays. -/
theorem State.inputOwned.turn {s : State} (hs : s.inputOwned) (a : Agent) :
    ∃ t, leftBy (s.turn a) = some t ∧ t.inputOwned := by
  cases hq : s.input.queue a with
  | nil => exact ⟨s, by rw [State.turn_of_nil hq]; rfl, hs⟩
  | cons w q =>
    obtain ⟨i, hd, hi⟩ := hs a w (by rw [hq]; exact List.mem_cons_self)
    obtain ⟨t, ht, heff⟩ := leftBy_exec i (s.setQueue a q)
    have hrest : (s.setQueue a q).inputOwned := hs.setQueue fun v hv => hs a v (by
      rw [hq]
      exact List.mem_cons_of_mem w hv)
    obtain ⟨hwf, -⟩ := decodeFields_ok hd
    exact ⟨t, by rw [State.turn_of_own hq hd hi, ht], heff.inputOwned hwf hrest⟩

/-! ## A reset at an instant -/

/-- What a reset takes from the queues of the others: a word for each time the agent presents at the instant
(log 14). -/
theorem foldl_override_queue (now : List Agent) (s : State) {a : Agent} (ha : a ≠ .rst) :
    (now.foldl State.override s).input.queue a = (s.input.queue a).drop (now.count a) := by
  induction now generalizing s with
  | nil => rfl
  | cons b bs ih =>
    rw [List.foldl_cons, ih]
    by_cases hb : b = a
    · subst hb
      rw [List.count_cons_self, State.override, if_neg ha, State.setQueue_input, Input.queue_setQueue_self,
        List.drop_tail]
    · rw [List.count_cons_of_ne hb, State.override]
      split
      · rfl
      · rw [State.setQueue_input, Input.queue_setQueue_other _ _ (Ne.symm hb)]

/-- The queue of RST and the schedule stay as they are. -/
theorem foldl_override_rst (now : List Agent) (s : State) :
    (now.foldl State.override s).input.rst = s.input.rst ∧
      (now.foldl State.override s).input.schedule = s.input.schedule := by
  induction now generalizing s with
  | nil => exact ⟨rfl, rfl⟩
  | cons b bs ih =>
    obtain ⟨hrst, hsched⟩ := ih (s.override b)
    rw [List.foldl_cons, hrst, hsched]
    cases b <;> exact ⟨rfl, rfl⟩

/-! ## Some steps in a row -/

/-- A run goes on from the next state of its first step. -/
theorem core_run_succ {s t : State} (h : step s = .next t) (n : Nat) :
    Sys2Proof.core.run (n + 1) s = Sys2Proof.core.run n t := by
  have h' : Sys2Proof.core.step s = .next t := h
  simp only [Host.Core.run, h']

/-- The word of a TX.BYTE is its canonical word: it has no field that is ignored (R45). -/
theorem encode_txByte_of_decode {w : Cmd} {b : Byte} (h : decode w = .ok (.txByte b)) :
    encode (.txByte b) = w := by
  obtain ⟨-, hop, -⟩ := decodeFields_ok h
  have hyes : hasOperand (Cmd.op w) = true := by rw [← hop]; rfl
  rw [encode_of_decode h, if_pos hyes, word_of_fields]

/-- A turn of CONS with a TX.BYTE at a busy transmitter passes, the word back at the front of its queue (R78). -/
theorem step_of_held {s : State} {b : Byte} {w : Cmd} {q : List Cmd} {rest : List (List Agent)}
    (hdir : s.dir = .transmit) (hbusy : s.txBusy = true) (hd : decode w = .ok (.txByte b))
    (hq : s.input.cons = w :: q) (h : s.input.schedule = [.cons] :: rest) :
    step s = .next (s.setSchedule rest) := by
  have hback : ((s.setSchedule rest).setQueue .cons q).wait (.txByte b) = s.setSchedule rest := by
    rw [State.wait, encode_txByte_of_decode hd]
    change (s.setSchedule rest).setQueue .cons (w :: q) = s.setSchedule rest
    rw [← hq]
    rfl
  calc step s = exec (.txByte b) ((s.setSchedule rest).setQueue .cons q) := step_of_alone_own h hq hd rfl
    _ = .next (((s.setSchedule rest).setQueue .cons q).wait (.txByte b)) := exec_txByte_of_busy b hdir hbusy
    _ = .next (s.setSchedule rest) := congrArg Host.Outcome.next hback

/-- A turn of SHIFT with a byte in flight frees the transmitter (R80). -/
theorem step_of_done {s : State} {d : Cmd} {q : List Cmd} {rest : List (List Agent)} (hbusy : s.txBusy = true)
    (hd : decode d = .ok .txDone) (hq : s.input.shift = d :: q) (h : s.input.schedule = [.shift] :: rest) :
    step s = .next (State.give { (s.setSchedule rest).setQueue .shift q with txBusy := false } .none) :=
  (step_of_alone_own h hq hd rfl).trans (exec_txDone_of_busy hbusy)

/-- A turn of CONS with a TX.BYTE at a free transmitter hands the byte over (R78). -/
theorem step_of_taken {s : State} {b : Byte} {w : Cmd} {q : List Cmd} {rest : List (List Agent)}
    (hdir : s.dir = .transmit) (hfree : s.txBusy = false) (hd : decode w = .ok (.txByte b))
    (hq : s.input.cons = w :: q) (h : s.input.schedule = [.cons] :: rest) :
    step s = .next ((((s.setSchedule rest).setQueue .cons q).accept b).give .none) :=
  (step_of_alone_own h hq hd rfl).trans (exec_txByte_of_free b hdir hfree)

/-! ## The obligations -/

/-- Settles O6: `step_eq_turn`, and a turn with a word of the agent's own. -/
theorem stepRunsDecodedOperation : Obligations.StepRunsDecodedOperation := by
  intro s a as rest w q i h hr hq hd hi
  rw [step_eq_turn h hr]
  exact State.turn_of_own (by simpa using hq) hd hi

/-- Settles O7: the word of the table row, by `step_presentNext`. -/
theorem placedWordRunsNext : Obligations.PlacedWordRunsNext := by
  intro s nbits w i _ _ h
  obtain ⟨cmd, hw, hd⟩ := decodeTableWord_some h
  rw [State.withFetchWord, hw]
  exact step_presentNext hd s

/-- Settles O8: an empty schedule, an empty instant, an empty queue. -/
theorem nothingPresentedChangesNothing : Obligations.NothingPresentedChangesNothing := by
  refine ⟨fun s h => ?_, fun s rest h => ?_, fun s a as rest h hr hq => ?_⟩
  · simp [step, h]
  · simp [step, h, State.instant, State.resetPresented]
  · rw [step_eq_turn h hr]
    exact State.turn_of_nil (by simpa using hq)

/-- Settles O9: the two turns that are refused. -/
theorem stepRefusesReservedAndForeign : Obligations.StepRefusesReservedAndForeign := by
  intro s a as rest w q h hr hq
  have hq' : (s.setSchedule (pushInstant as rest)).input.queue a = w :: q := by simpa using hq
  rw [step_eq_turn h hr]
  exact ⟨fun op => State.turn_of_reserved hq', fun i => State.turn_of_foreign hq'⟩

/-- Settles O10: the turn of the agent that moves, in an input that is still owned. -/
theorem ownedInputIsNeverRefused : Obligations.OwnedInputIsNeverRefused := by
  intro s hs
  cases h : s.input.schedule with
  | nil => exact ⟨s, by simp [step, h, leftBy], hs⟩
  | cons now rest =>
    cases hr : s.resetPresented now with
    | true =>
      rw [step_eq_reset h hr]
      exact ((hs.setSchedule rest).foldl_override now).turn .rst
    | false =>
      cases now with
      | nil => exact ⟨s.setSchedule rest, by simp [step, h, State.instant, hr, leftBy], hs.setSchedule rest⟩
      | cons a as =>
        rw [step_eq_turn h hr]
        exact (hs.setSchedule _).turn a

/-- Settles O11: RST moves, what the others presented is gone by `foldl_override_queue`, and SYS.RESET has one
outcome. -/
theorem resetWinsTheInstant : Obligations.ResetWinsTheInstant := by
  intro s now rest w q h hnow hrst hd
  have hr : s.resetPresented now = true := by simp [State.resetPresented, hnow, hrst]
  obtain ⟨hqueue, hsched⟩ := foldl_override_rst now (s.setSchedule rest)
  have hothers := fun a => foldl_override_queue now (s.setSchedule rest) (a := a)
  have hstep := step_eq_reset h hr
  obtain ⟨inp, e⟩ := sameBut_foldl_override now (s.setSchedule rest)
  rw [e] at hqueue hsched hothers hstep
  have hq : (({ s.setSchedule rest with input := inp } : State).input.queue .rst) = w :: q := hqueue.trans hrst
  rw [State.turn_of_own hq hd rfl] at hstep
  refine ⟨_, hstep, rfl, rfl, rfl, rfl, rfl, rfl, rfl, rfl, rfl, hsched, rfl, fun a ha => ?_⟩
  refine (Input.queue_setQueue_other inp q ha).trans ((hothers a ha).trans ?_)
  rw [State.setSchedule_input, Input.queue_withSchedule]

/-- Settles O52: the turn that passes, the completion, and the turn that hands the byte over. -/
theorem heldByteProceedsAfterDone : Obligations.HeldByteProceedsAfterDone := by
  intro b w d qc qs rest s hdir hbusy hw hd hcons hshift hsched
  have hheld := step_of_held hdir hbusy hw hcons hsched
  have hdone := step_of_done (s := s.setSchedule ([.shift] :: [.cons] :: rest)) hbusy hd hshift rfl
  have htaken := step_of_taken
    (s := State.give { (s.setSchedule ([.cons] :: rest)).setQueue .shift qs with txBusy := false } .none)
    hdir rfl hw hcons rfl
  have hrun := (core_run_succ hheld 2).trans ((core_run_succ hdone 1).trans (core_run_succ htaken 0))
  exact ⟨⟨_, hheld, rfl, hcons⟩, _, hrun, rfl, rfl, rfl, rfl, rfl⟩

end Sys2Proof.Machine
end

section
/-! PROOFS. What a board hears from its peer (60_exceptions.md section 6). -/

namespace Sys2Proof.Machine

/-! ## The bytes queued -/

/-- The word in which a byte on the line is presented (R45). -/
def rxWord (b : Byte) : Cmd := (0x4#4 ++ b : BitVec (4 + 8))

/-- The canonical word of a received byte of any class is the word of that byte. -/
theorem encode_rxByte (b : Byte) : encode (rxByte b) = rxWord b := by
  obtain ⟨-, hop, hdata⟩ := rxByte_fields b
  rw [encode, hop, hdata, rxWord]

/-- A byte presented behind everything scheduled: its word at the end of PROD's queue, and one instant (log 19). -/
theorem State.presentInstant_rxByte (s : State) (b : Byte) :
    s.presentInstant [rxByte b] = { s with
      input := { s.input with
        prod := s.input.prod ++ [rxWord b], schedule := s.input.schedule ++ [[.prod]] } } := by
  simp only [State.presentInstant, List.foldl_cons, List.foldl_nil, List.map_cons, List.map_nil, State.enqueue,
    issuer_rxByte, encode_rxByte]
  rfl

/-- In Receive all bytes of the peer are queued, in order and behind everything scheduled (R93). -/
theorem State.hear_of_receive (bytes : List Byte) (n : Nat) {s : State} (hd : s.dir = .receive) :
    s.hear n bytes = { s with
      input := { s.input with
        prod := s.input.prod ++ bytes.map rxWord
        schedule := s.input.schedule ++ bytes.map fun _ => [.prod] } } := by
  induction bytes generalizing n s with
  | nil => simp [State.hear]
  | cons b bytes ih =>
    have harr : s.arriving n b = some b := by simp [State.arriving, hd]
    simp only [State.hear, harr]
    rw [ih (n + 1) (by rw [State.presentInstant_rxByte]; exact hd), State.presentInstant_rxByte]
    simp

/-- In Transmit and blocked nothing arrives (R82, R93). -/
theorem State.hear_of_blocked (bytes : List Byte) (n : Nat) {s : State} (hd : s.dir = .transmit)
    (hb : s.rxWhileTx = .blocked) : s.hear n bytes = s := by
  induction bytes generalizing n with
  | nil => rfl
  | cons b bytes ih =>
    have harr : s.arriving n b = none := by simp [State.arriving, hd, hb]
    simp only [State.hear, harr]
    exact ih (n + 1)

/-! ## The bytes executed -/

/-- The input of a board that has heard some bytes and has nothing else to do. -/
def heardInput (bytes : List Byte) : Input :=
  { Input.empty with prod := bytes.map rxWord, schedule := bytes.map fun _ => [.prod] }

/-- With another input a received byte takes the same branch: no operation of FR reads or writes it. -/
theorem Effect.received_with_input {b : Byte} {s t : State} (h : Effect (rxByte b) s t) (inp : Input) :
    Effect (rxByte b) { s with input := inp } { t with input := inp } := by
  obtain ⟨-, e⟩ | ⟨-, e⟩ | ⟨-, -, e⟩ := rxByte_cases b <;> rw [e] at h ⊢
  · obtain ⟨he, rfl⟩ | ⟨he, hs, rfl⟩ | ⟨he, hs, rfl⟩ := h
    · exact .inl ⟨he, rfl⟩
    · exact .inr (.inl ⟨he, hs, rfl⟩)
    · exact .inr (.inr ⟨he, hs, rfl⟩)
  · obtain ⟨he, rfl⟩ | ⟨he, hs, rfl⟩ | ⟨he, hs, rfl⟩ := h
    · exact .inl ⟨he, rfl⟩
    · exact .inr (.inl ⟨he, hs, rfl⟩)
    · exact .inr (.inr ⟨he, hs, rfl⟩)
  · obtain ⟨he, rfl⟩ | ⟨he, hs, rfl⟩ | ⟨he, hs, hf, rfl⟩ | ⟨he, hs, hf, rfl⟩ := h
    · exact .inl ⟨he, rfl⟩
    · exact .inr (.inl ⟨he, hs, rfl⟩)
    · exact .inr (.inr (.inl ⟨he, hs, hf, rfl⟩))
    · exact .inr (.inr (.inr ⟨he, hs, hf, rfl⟩))

/-- The step of a board that has heard some bytes is the receipt of the first. -/
theorem step_heard (b : Byte) (bytes : List Byte) (s : State) :
    step { s with input := heardInput (b :: bytes) } = exec (rxByte b) { s with input := heardInput bytes } :=
  step_of_alone_own (s := { s with input := heardInput (b :: bytes) }) (w := rxWord b) rfl rfl (decode_rxWord b)
    (issuer_rxByte b)

/-- Step by step, a board receives the bytes it has heard. -/
theorem run_heard (bytes : List Byte) {s t : State} (h : execAll (rxs bytes) s = .next t) :
    Sys2Proof.core.run bytes.length { s with input := heardInput bytes } =
      .next { t with input := Input.empty } := by
  induction bytes generalizing s with
  | nil => cases h; rfl
  | cons b bytes ih =>
    obtain ⟨u, hu, heff⟩ := exec_rxByte_next b s
    have hrest : execAll (rxs bytes) u = .next t := (execAll_cons_of_next hu _).symm.trans h
    have hstep := (step_heard b bytes s).trans (exec_rxByte_of_effect (heff.received_with_input (heardInput bytes)))
    exact (core_run_succ hstep bytes.length).trans (ih hrest)

/-! ## The obligations -/

/-- Settles O59: `State.hear_of_receive` and `State.hear_of_blocked`. -/
theorem peerBytesArriveInOrder : Obligations.PeerBytesArriveInOrder := by
  intro bytes n s
  refine ⟨fun hd => ?_, State.hear_of_blocked bytes n⟩
  rw [State.hear_of_receive bytes n hd]
  rfl

/-- Settles O60: the frame is queued by `State.hear_of_receive` and received by `run_heard`. -/
theorem heardFrameIsAnnounced : Obligations.HeardFrameIsAnnounced := by
  intro p n s hp hd hin
  obtain ⟨t, ht, hmsg⟩ := execAll_frame_of_pPayload hp (.inl hd)
  have hheard : s.hear n (frameBytes p) = { s with input := heardInput (frameBytes p) } := by
    rw [State.hear_of_receive _ n hd, hin]
    rfl
  have hlen : (frameBytes p).length = p.length + 2 := by simp [frameBytes]
  refine ⟨{ t with input := Input.empty }, ?_, hmsg.ready, hmsg.held, rfl⟩
  rw [hheard, ← hlen]
  exact run_heard (frameBytes p) ht

end Sys2Proof.Machine
end
